-- ==== Sys2Proof/Word.lean ====
section
/-! DEFINITION. The fixed-width words of the core (spec/00_scope.md R9): `u8`, `u32` and `u64`, whose `+` and `*` wrap. -/

namespace Sys2Proof

/-- `u8`. -/
abbrev Byte := BitVec 8

/-- `u32`. -/
abbrev U32 := BitVec 32

/-- `u64`. -/
abbrev U64 := BitVec 64

end Sys2Proof
end

