-- ==== Sys2Proof/Config.lean ====
section
/-! DEFINITION. What the spec leaves to the implementation (00_scope.md R8) and the free values it admits. The constants
declared `opaque` have no body: nothing proved here can depend on what they are. -/

namespace Sys2Proof.Config

/-- The least DMEM_SIZE (R38): BIP32H's 32 + 32 + 64 bytes. -/
def dmemSizeMin : Nat := 128

/-- The greatest DMEM_SIZE (R38): every byte has a 32-bit address. -/
def dmemSizeMax : Nat := 2 ^ 32

/-- The reference value of DMEM_SIZE (R8). DESIGN CHOICE (log 3): the size State.reset has; every statement about all
states is about every size. -/
def dmemSizeReference : Nat := 4096

/-- FREE VALUE (20_memory.md R40; log 5): what DMEM address `a` holds at power-on. Safe for claims about one state. DESIGN CHOICE
(log 15): every State reads this one function; unsafe for claims that compare unwritten bytes of two copies of the core (R55). -/
opaque powerOnByte : Nat → Byte

/-- FREE VALUE (70_reset_and_hazards.md R134; log 6): the `n`-th byte drawn for a BIP32H output that reset cut short. Safe for
claims about one run. DESIGN CHOICE (log 16): every State draws from this one function; unsafe for claims that compare bytes so
drawn in two copies of the core (R55) or in two runs. -/
opaque resetDraw : Nat → Byte

/-- PARAMETER (20_memory.md R53; log 4): the external HMAC-SHA512 unit, total and deterministic in its key and message. Safe. -/
opaque hmac512 : Vector Byte 32 → Vector Byte 37 → Vector Byte 64

end Sys2Proof.Config
end

