-- ==== Sys2Proof/Syntax.lean ====
section
/-! DEFINITION. The core's instructions as syntax: commands (30_encoding.md R58), host transactions (R63), the registers
they name (10_state.md R13), and the two formats they are written in, CMDW (R56) and HOST (R62). -/

namespace Sys2Proof

/-- The eight commands of the opcode map (R58). -/
inductive Command where
  | mur32
  | sipinit
  | sipword
  | sipbytes
  | sipfinal
  | sip256
  | sip256x
  | bip32h
deriving DecidableEq, Repr

/-- The 25 host-visible registers (R13), in the order of their numbers. -/
inductive Reg where
  | cmd | status | einfo | result
  | k0 | k1 | word | val0 | val1 | val2 | val3
  | extra | seed | src | len | aux | dst | index | header
  | sv0 | sv1 | sv2 | sv3 | scount | stail
deriving DecidableEq, Repr

/-- The instructions of the core: one constructor per row of spec/opcode_table.json.
A command constructor is the act of issuing that command word, `HWR CMD, <word>` (R64). -/
inductive Instr where
  /-- R103. -/
  | mur32
  /-- R89. -/
  | sipinit
  /-- R90. -/
  | sipword
  /-- R92. -/
  | sipbytes
  /-- R93. -/
  | sipfinal
  /-- R98. -/
  | sip256
  /-- R99. -/
  | sip256x
  /-- R109. -/
  | bip32h
  /-- R70: register read; `n` is the 8-bit register number. -/
  | hrd (n : BitVec 8)
  /-- R71: register write of `d` to register number `n`. -/
  | hwr (n : BitVec 8) (d : U64)
  /-- R73: DMEM byte read at `a`. -/
  | hrdb (a : U32)
  /-- R74: DMEM byte write of `b` at `a`. -/
  | hwrb (a : U32) (b : Byte)
deriving DecidableEq, Repr

/-- The instruction a command is. -/
def Command.toInstr : Command → Instr
  | .mur32 => .mur32
  | .sipinit => .sipinit
  | .sipword => .sipword
  | .sipbytes => .sipbytes
  | .sipfinal => .sipfinal
  | .sip256 => .sip256
  | .sip256x => .sip256x
  | .bip32h => .bip32h

/-- A host-port transaction as its three fields (R62, R67): KIND, A and D. A read has no D.
The container is wide enough for every kind; `Frame.wellFormed` says which values are transactions of R62. -/
structure Transaction where
  kind : BitVec 2
  a    : U32
  d    : Option U64
deriving DecidableEq, Repr

/-- What the two formats of the opcode table carry: a command word (R56) or a host transaction (R62). -/
inductive Frame where
  | cmdw (c : U32)
  | host (t : Transaction)
deriving DecidableEq, Repr

end Sys2Proof
end

