-- ==== Sys2Proof/WellFormed.lean ====
section
/-! DEFINITION. Which frames are command words or transactions of the spec (30_encoding.md R56, R58, R62).
An `Instr` needs no check of its own: its fields have exactly the widths of R62, so every term of it is well formed. -/

namespace Sys2Proof

/-- The OPC values of R58. -/
def assignedOpcodes : List Byte :=
  [0x01, 0x10, 0x11, 0x12, 0x13, 0x20, 0x21, 0x30]

/-- RSV, bits 31:8, is zero (R56). -/
def reservedClear (c : U32) : Bool :=
  c.extractLsb' 8 24 == 0

/-- OPC, bits 7:0, is assigned (R58). -/
def opcodeAssigned (c : U32) : Bool :=
  assignedOpcodes.contains (c.extractLsb' 0 8)

/-- A register number has 8 bits (R62). -/
def fitsRegNumber (a : U32) : Bool :=
  a.toNat < 256

/-- A read has no D (R62). -/
def noData (d : Option U64) : Bool :=
  d.isNone

/-- A write has a D that fits its width: 64 bits for a register write, 8 for a byte write (R62). -/
def dataFits (bits : Nat) : Option U64 → Bool
  | none => false
  | some d => d.toNat < 2 ^ bits

/-- The frames the spec has: legal command words (R56, R58) and transactions (R62, R63). -/
def Frame.wellFormed : Frame → Bool
  | .cmdw c => reservedClear c && opcodeAssigned c
  | .host t =>
    match t.kind.toNat with
    | 0 => fitsRegNumber t.a && noData t.d
    | 1 => fitsRegNumber t.a && dataFits 64 t.d
    | 2 => noData t.d
    | _ => dataFits 8 t.d

end Sys2Proof
end

