-- ==== Sys2Proof/Decode.lean ====
section
/-! DEFINITION. Decoding and encoding of command words (30_encoding.md R56 to R61) and host transactions (R62, R63, R67). -/

namespace Sys2Proof

/-- Why a frame is no instruction. -/
inductive DecodeError where
  /-- RSV, bits 31:8 of a command word, is not 0 (R59). -/
  | reservedBits
  /-- OPC is not in the opcode map (R59). -/
  | unassignedOpcode
  /-- A register kind whose A is not an 8-bit register number (R62). -/
  | registerNumberRange
  /-- A read with a D (R62). -/
  | unexpectedData
  /-- A write without a D (R62). -/
  | missingData
  /-- A byte write whose D is wider than 8 bits (R62). -/
  | byteDataRange
deriving DecidableEq, Repr

/-- R59: the command a word is, or why it is Illegal. -/
def decodeCommand (c : U32) : Except DecodeError Command :=
  if c.extractLsb' 8 24 ≠ 0 then .error .reservedBits
  else
    match (c.extractLsb' 0 8).toNat with
    | 0x01 => .ok .mur32
    | 0x10 => .ok .sipinit
    | 0x11 => .ok .sipword
    | 0x12 => .ok .sipbytes
    | 0x13 => .ok .sipfinal
    | 0x20 => .ok .sip256
    | 0x21 => .ok .sip256x
    | 0x30 => .ok .bip32h
    | _ => .error .unassignedOpcode

/-- The register number in the A field of a register kind (R62). -/
def regNumber (a : U32) : Except DecodeError (BitVec 8) :=
  if a.toNat < 256 then .ok (a.extractLsb' 0 8) else .error .registerNumberRange

/-- R62, R63: the instruction a host transaction is. -/
def decodeTransaction (t : Transaction) : Except DecodeError Instr :=
  match t.kind.toNat with
  | 0 =>
    match t.d with
    | none => (regNumber t.a).map .hrd
    | some _ => .error .unexpectedData
  | 1 =>
    match t.d with
    | none => .error .missingData
    | some d => (regNumber t.a).map fun n => .hwr n d
  | 2 =>
    match t.d with
    | none => .ok (.hrdb t.a)
    | some _ => .error .unexpectedData
  | _ =>
    match t.d with
    | none => .error .missingData
    | some d => if d.toNat < 256 then .ok (.hwrb t.a (d.extractLsb' 0 8)) else .error .byteDataRange

/-- The instruction a frame of either format is. -/
def decode : Frame → Except DecodeError Instr
  | .cmdw c => (decodeCommand c).map Command.toInstr
  | .host t => decodeTransaction t

/-- R58: the full command word of a command. -/
def commandWord : Command → U32
  | .mur32 => 0x00000001
  | .sipinit => 0x00000010
  | .sipword => 0x00000011
  | .sipbytes => 0x00000012
  | .sipfinal => 0x00000013
  | .sip256 => 0x00000020
  | .sip256x => 0x00000021
  | .bip32h => 0x00000030

/-- The frame of an instruction, in the format the opcode table gives it (R58, R62, R63). -/
def encode : Instr → Frame
  | .mur32 => .cmdw (commandWord .mur32)
  | .sipinit => .cmdw (commandWord .sipinit)
  | .sipword => .cmdw (commandWord .sipword)
  | .sipbytes => .cmdw (commandWord .sipbytes)
  | .sipfinal => .cmdw (commandWord .sipfinal)
  | .sip256 => .cmdw (commandWord .sip256)
  | .sip256x => .cmdw (commandWord .sip256x)
  | .bip32h => .cmdw (commandWord .bip32h)
  | .hrd n => .host ⟨0, n.setWidth 32, none⟩
  | .hwr n d => .host ⟨1, n.setWidth 32, some d⟩
  | .hrdb a => .host ⟨2, a, none⟩
  | .hwrb a b => .host ⟨3, a, some (b.setWidth 64)⟩

/-- The transaction by which the host issues a frame: a command word is written to CMD, register 0 (R64, R67). -/
def Frame.issue : Frame → Transaction
  | .cmdw c => ⟨1, 0, some (c.setWidth 64)⟩
  | .host t => t

/-- The transaction by which the host issues an instruction (R67). -/
def Instr.issue (i : Instr) : Transaction :=
  (encode i).issue

/-- A program's encoding: the list of its (KIND, A, D) triples (R67). -/
def encodeProgram (p : List Instr) : List Transaction :=
  p.map Instr.issue

/-- The frame whose bits are `w`. A row of 32 bits is a command word (R56). A row of the HOST format is numbered field after
field from bit 0, KIND, A, D, each at its width in R62; DESIGN CHOICE (log 8), since R62 leaves the wire form open.
`none` where `w` has bits above the fields of its kind. -/
def tableFrame (nbits w : Nat) : Option Frame :=
  if nbits = 32 then if w < 2 ^ 32 then some (.cmdw (BitVec.ofNat 32 w)) else none
  else
    match w % 4 with
    | 0 => if w < 2 ^ 10 then some (.host ⟨0, BitVec.ofNat 32 (w / 4), none⟩) else none
    | 1 => if w < 2 ^ 74 then
        some (.host ⟨1, BitVec.ofNat 32 (w / 4 % 256), some (BitVec.ofNat 64 (w / 2 ^ 10))⟩) else none
    | 2 => if w < 2 ^ 34 then some (.host ⟨2, BitVec.ofNat 32 (w / 4), none⟩) else none
    | _ => if w < 2 ^ 42 then
        some (.host ⟨3, BitVec.ofNat 32 (w / 4), some (BitVec.ofNat 64 (w / 2 ^ 34))⟩) else none

/-- The instruction this decoder reads from the bits `w` of an opcode-table row of `nbits` bits. -/
def decodeTableWord (nbits w : Nat) : Option Instr :=
  match tableFrame nbits w with
  | none => none
  | some f => (decode f).toOption

end Sys2Proof
end

