-- ==== Sys2Proof/Machine/State.lean ====
section
/-! DEFINITION. The state of the core as plain data (10_state.md R33), its reset value (70_reset_and_hazards.md R132 to R135),
and the reasons a step can stop. -/

namespace Sys2Proof.Machine

/-- There is no fault: no error of the core stops it (60_exceptions.md R114, R122), and every command ends (R143). -/
inductive Fault where
deriving DecidableEq, Repr

/-- Why a step gives no next state. -/
inductive Refusal where
  /-- Raised by `exec`'s arm of an instruction without a meaning yet, by its mnemonic. Safe. No arm uses it. -/
  | notModelled (mnemonic : String)
  /-- Raised by `step` when the oldest entry of `port` is no transaction of 30_encoding.md R62, so that no host could
  have issued it. Safe (log 7). -/
  | malformedTransaction (why : DecodeError)
deriving DecidableEq, Repr

/-- The four SipHash accumulators v0..v3 (R27). -/
structure SipState where
  v0 : U64
  v1 : U64
  v2 : U64
  v3 : U64
deriving DecidableEq, Repr

/-- The SipHash streaming context `ctx` (R27). -/
structure SipCtx where
  v     : SipState
  /-- Every byte absorbed so far, those in `tail` among them (R27, C2). -/
  count : U64
  /-- The bytes of the unfinished 8-byte group. -/
  tail  : U64
  /-- Set by SIPINIT; STATUS.SIPV is its view (R30). -/
  valid : Bool
deriving DecidableEq, Repr

/-- STATUS.ERR, STATUS.ECAUSE (R18) and EINFO (R20). -/
structure ErrorRegs where
  err    : Bool
  ecause : BitVec 8
  einfo  : U64
deriving DecidableEq, Repr

/-- The operand registers, numbers 4 to 18 (R13, R22 to R26). -/
structure OperandRegs where
  k0     : U64
  k1     : U64
  word   : U64
  val0   : U64
  val1   : U64
  val2   : U64
  val3   : U64
  extra  : U32
  seed   : U32
  src    : U32
  len    : U32
  aux    : U32
  dst    : U32
  index  : U32
  header : Byte
deriving DecidableEq, Repr

/-- The bytes of DMEM written since power-on, addresses strictly rising (20_memory.md R38, R40). -/
abbrev Memory := List Host.Cell

/-- What the host does to the core, in its order. -/
inductive HostEvent where
  /-- It issues a transaction (R62). -/
  | transact (t : Transaction)
  /-- The reset input, while no command runs (R132). -/
  | reset
  /-- The reset input while the command issued by a CMD write of `c` runs; `held` is the transaction the port held
  behind that command, which is dropped (R134). -/
  | resetDuring (c : U32) (held : Option Transaction)
deriving DecidableEq, Repr

/-- The response of a read transaction (R62): 64 bits for a register, 8 for a byte of DMEM. -/
inductive Response where
  | reg (v : U64)
  | byte (b : Byte)
deriving DecidableEq, Repr

/-- One call on the HMAC port (20_memory.md R53). -/
structure HmacCall where
  key : Vector Byte 32
  msg : Vector Byte 37
deriving DecidableEq, Repr

/-- The state of one core and of its ports. CMD has no field: it stores nothing (R17). SIPV and the views SV0..STAIL have none:
they read `ctx` (R18, R29). -/
structure State where
  errs      : ErrorRegs
  /-- RESULT (R21). -/
  result    : U64
  regs      : OperandRegs
  ctx       : SipCtx
  dmem      : Memory
  /-- The parameter DMEM_SIZE (R8), which no step changes (log 3). -/
  dmemSize  : Nat
  /-- The host's events the core has not taken yet, oldest first (R50; log 1). -/
  port      : List HostEvent
  /-- The responses of the read transactions so far, in order (R145; log 2). -/
  responses : List Response
  /-- The calls the completed BIP32H commands made, in order (R54; log 4). -/
  hmacCalls : List HmacCall
  /-- How many free bytes resets have drawn (R134; log 6). -/
  draws     : Nat
deriving DecidableEq, Repr

/-- Reset values of STATUS.ERR, STATUS.ECAUSE and EINFO (R13, R132). -/
def ErrorRegs.reset : ErrorRegs :=
  { err := false, ecause := 0, einfo := 0 }

/-- Reset values of the operand registers (R13, R132). -/
def OperandRegs.reset : OperandRegs :=
  { k0 := 0, k1 := 0, word := 0, val0 := 0, val1 := 0, val2 := 0, val3 := 0, extra := 0, seed := 0, src := 0, len := 0,
    aux := 0, dst := 0, index := 0, header := 0 }

/-- Reset value of the context (R133): not a usable SipHash state. -/
def SipCtx.reset : SipCtx :=
  { v := { v0 := 0, v1 := 0, v2 := 0, v3 := 0 }, count := 0, tail := 0, valid := false }

/-- The machine right after the first reset since power-on: every register at its reset value (R132, R133), DMEM never written
(R40), the port idle (R135). -/
def State.reset : State :=
  { errs := ErrorRegs.reset, result := 0, regs := OperandRegs.reset, ctx := SipCtx.reset, dmem := [],
    dmemSize := Config.dmemSizeReference, port := [], responses := [], hmacCalls := [], draws := 0 }

end Sys2Proof.Machine
end

