-- ==== Sys2Proof/Machine/Flags.lean ====
section
/-! DEFINITION. The core's only flags, STATUS.ERR and STATUS.SIPV (10_state.md R34), the STATUS word (R18), the cause codes
(60_exceptions.md R115), and how an error is captured (R122) and cleared (R19). -/

namespace Sys2Proof.Machine

/-- The causes of an error (R115). -/
inductive Cause where
  | illegalCmd
  | sipNoctx
  | sipUnaligned
  | dmemRange
  | badReg
  | hostRange
deriving DecidableEq, Repr

/-- The code of a cause in STATUS.ECAUSE (R115). Code 0 is NONE; 7 to 255 are reserved. -/
def Cause.code : Cause → BitVec 8
  | .illegalCmd => 1
  | .sipNoctx => 2
  | .sipUnaligned => 3
  | .dmemRange => 4
  | .badReg => 5
  | .hostRange => 6

/-- A one-bit field in a 64-bit word. -/
def bit64 (b : Bool) : U64 :=
  (BitVec.ofBool b).setWidth 64

/-- R18: the value a read of STATUS gives. Bits 7:2 and 63:16 are hardwired 0. -/
def statusWord (e : ErrorRegs) (valid : Bool) : U64 :=
  (e.ecause.setWidth 64 <<< 8) ||| (bit64 valid <<< 1) ||| bit64 e.err

/-- R122: capture an error, unless one is captured already (R123). -/
def ErrorRegs.capture (e : ErrorRegs) (cause : Cause) (info : U64) : ErrorRegs :=
  if e.err then e else { err := true, ecause := cause.code, einfo := info }

/-- R19: what a host write of `d` to STATUS leaves. Only bit 0 of `d` matters. -/
def ErrorRegs.writeStatus (e : ErrorRegs) (d : U64) : ErrorRegs :=
  if d.getLsbD 0 then ErrorRegs.reset else e

/-- R20: EINFO of an error that a command raises. -/
def commandInfo (c : U32) : U64 :=
  c.setWidth 64

/-- R20: EINFO of an error that a host transaction raises; `target` is the register number or DMEM address. -/
def transactionInfo (write : Bool) (target : U32) : U64 :=
  (bit64 write <<< 32) ||| target.setWidth 64

end Sys2Proof.Machine
end

