-- ==== Sys2Proof/Machine/Ops.lean ====
section
/-! DEFINITION. The named operations over memory and registers: DMEM bytes and ranges (20_memory.md R38 to R45), raising an
error and clearing it (60_exceptions.md R122, R126), running a command (R124), responses and HMAC calls, and reset
(70_reset_and_hazards.md R132 to R134). -/

namespace Sys2Proof.Machine

/-! ### The list of written bytes -/

/-- The canonical form: addresses strictly rising. -/
abbrev Memory.wf (m : Memory) : Prop :=
  m.Pairwise fun x y => x.1 < y.1

/-- The byte written at `a`; `none` where nothing has been written since power-on. -/
def Memory.get? : Memory → Nat → Option Byte
  | [], _ => none
  | (k, v) :: m, a => if a = k then some v else Memory.get? m a

/-- Write one byte, keeping the addresses rising. -/
def Memory.set : Memory → Nat → Byte → Memory
  | [], a, b => [(a, b)]
  | (k, v) :: m, a, b =>
    if a < k then (a, b) :: (k, v) :: m
    else if a = k then (a, b) :: m
    else (k, v) :: Memory.set m a b

/-- Write a sequence of bytes from `a` upward. -/
def Memory.setMany : Memory → Nat → List Byte → Memory
  | m, _, [] => m
  | m, a, b :: bs => Memory.setMany (m.set a b) (a + 1) bs

/-! ### DMEM -/

/-- The byte at DMEM address `a`: the last one written, or the power-on draw (R40).
DESIGN CHOICE (log 15): the draw depends on the address only, so two states (two copies of the core, R55, or one core after two
power-ons) agree at an address that neither has written. Unsafe for a claim that compares two states there. -/
def State.readByte (s : State) (a : Nat) : Byte :=
  (s.dmem.get? a).getD (Config.powerOnByte a)

/-- `MemRead(a, n)` (R43): `n` bytes from `a` upward. -/
def State.memRead (s : State) (a n : Nat) : List Byte :=
  (List.range n).map fun i => s.readByte (a + i)

/-- `MemRead(a, n)` as a vector, for operands of a fixed length. -/
def State.memReadVec (s : State) (a n : Nat) : Vector Byte n :=
  ⟨(s.memRead a n).toArray, by simp [State.memRead]⟩

/-- `DMEM[a] <- b`. -/
def State.writeByte (s : State) (a : Nat) (b : Byte) : State :=
  { s with dmem := s.dmem.set a b }

/-- `MemWrite(a, len bs, bs)` (R44). -/
def State.memWrite (s : State) (a : Nat) (bs : List Byte) : State :=
  { s with dmem := s.dmem.setMany a bs }

/-- R45: the operand `(a, n)` lies in DMEM. The sum is of naturals, so it never wraps. -/
def State.inDmem (s : State) (a n : Nat) : Bool :=
  a + n ≤ s.dmemSize

/-! ### Registers, context and ports -/

/-- Replace STATUS.ERR, STATUS.ECAUSE and EINFO. -/
def State.withErrs (s : State) (e : ErrorRegs) : State :=
  { s with errs := e }

/-- `RESULT <- v` (R21). -/
def State.withResult (s : State) (v : U64) : State :=
  { s with result := v }

/-- Replace the operand registers. -/
def State.withRegs (s : State) (r : OperandRegs) : State :=
  { s with regs := r }

/-- Replace the SipHash context. -/
def State.withCtx (s : State) (c : SipCtx) : State :=
  { s with ctx := c }

/-- Replace the events the host has issued. -/
def State.withPort (s : State) (p : List HostEvent) : State :=
  { s with port := p }

/-- Answer a read transaction (R62). -/
def State.respond (s : State) (r : Response) : State :=
  { s with responses := s.responses ++ [r] }

/-- Record a call on the HMAC port (R54). -/
def State.recordCall (s : State) (c : HmacCall) : State :=
  { s with hmacCalls := s.hmacCalls ++ [c] }

/-! ### Errors -/

/-- `raise Error(cause, info)` (R122): the one way an error is taken. It writes ERR, ECAUSE and EINFO only, and only while
ERR = 0. -/
def State.raiseError (s : State) (cause : Cause) (info : U64) : State :=
  s.withErrs (s.errs.capture cause info)

/-- A host write of `d` to STATUS (R19), the counterpart of a trap return (R126). -/
def State.writeStatus (s : State) (d : U64) : State :=
  s.withErrs (s.errs.writeStatus d)

/-- Run the command word `c` with the effect `effect` (R72): discarded while ERR = 1 (R124); an error of the effect is
captured with the command word, and nothing else is written (R122). -/
def runCommand (c : U32) (effect : State → Except Cause State) (s : State) : Host.Outcome State Fault Refusal :=
  if s.errs.err then .next s
  else
    match effect s with
    | .ok t => .next t
    | .error cause => .next (s.raiseError cause (commandInfo c))

/-! ### Reset -/

/-- The reset input (R132, R133): every register and the context to their reset values, DMEM unchanged (R134).
The ports' records and the configuration are outside the core. -/
def State.resetCore (s : State) : State :=
  { s with errs := ErrorRegs.reset, result := 0, regs := OperandRegs.reset, ctx := SipCtx.reset }

/-- The bytes of DMEM from `a` upward, at most `n`, become free values (R134, log 6).
DESIGN CHOICE (log 16): the draw depends on the count `draws` only, so two states (two copies of the core, R55, or two compared
runs) with equal `draws` draw equal bytes. Unsafe for a claim that compares such bytes of two states. -/
def State.drawBytes (s : State) (a n : Nat) : State :=
  { s.memWrite a ((List.range (min n (s.dmemSize - a))).map fun i => Config.resetDraw (s.draws + i)) with
    draws := s.draws + n }

/-- What is left when reset abandons the running command word `c` (R134): a BIP32H leaves unspecified bytes in
`DMEM[DST..DST+64)`; every other command leaves DMEM as it was. No command runs while ERR = 1 (R124). -/
def State.abandonCommand (s : State) (c : U32) : State :=
  if s.errs.err = false ∧ c = commandWord .bip32h then s.drawBytes s.regs.dst.toNat 64 else s

end Sys2Proof.Machine
end

