-- ==== Sys2Proof/Machine/Operands.lean ====
section
/-! DEFINITION. Operand forms: the register map (10_state.md R13 to R16) with what a host read and a host write of each
register do (40_host_port.md R70, R71), and the DMEM byte sequence of SRC and LEN (30_encoding.md R57). -/

namespace Sys2Proof.Machine

/-- The register of a number; `none` for the unmapped numbers 25 to 255 (R31). -/
def regOfNumber (n : BitVec 8) : Option Reg :=
  match n.toNat with
  | 0 => some .cmd
  | 1 => some .status
  | 2 => some .einfo
  | 3 => some .result
  | 4 => some .k0
  | 5 => some .k1
  | 6 => some .word
  | 7 => some .val0
  | 8 => some .val1
  | 9 => some .val2
  | 10 => some .val3
  | 11 => some .extra
  | 12 => some .seed
  | 13 => some .src
  | 14 => some .len
  | 15 => some .aux
  | 16 => some .dst
  | 17 => some .index
  | 18 => some .header
  | 19 => some .sv0
  | 20 => some .sv1
  | 21 => some .sv2
  | 22 => some .sv3
  | 23 => some .scount
  | 24 => some .stail
  | _ => none

/-- The number of a register (R13). -/
def regNumberOf : Reg → BitVec 8
  | .cmd => 0
  | .status => 1
  | .einfo => 2
  | .result => 3
  | .k0 => 4
  | .k1 => 5
  | .word => 6
  | .val0 => 7
  | .val1 => 8
  | .val2 => 9
  | .val3 => 10
  | .extra => 11
  | .seed => 12
  | .src => 13
  | .len => 14
  | .aux => 15
  | .dst => 16
  | .index => 17
  | .header => 18
  | .sv0 => 19
  | .sv1 => 20
  | .sv2 => 21
  | .sv3 => 22
  | .scount => 23
  | .stail => 24

/-- The width of a register in bits (R13). -/
def regWidth : Reg → Nat
  | .cmd | .extra | .seed | .src | .len | .aux | .dst | .index => 32
  | .header => 8
  | _ => 64

/-- The operand registers, which are the read-write ones (R13, R15). -/
def isOperandReg : Reg → Bool
  | .k0 | .k1 | .word | .val0 | .val1 | .val2 | .val3 | .extra | .seed | .src | .len | .aux | .dst | .index | .header => true
  | _ => false

/-- R70: the value a host read of a register gives, a narrow one zero-extended (R16). -/
def State.readReg (s : State) : Reg → U64
  | .cmd => 0
  | .status => statusWord s.errs s.ctx.valid
  | .einfo => s.errs.einfo
  | .result => s.result
  | .k0 => s.regs.k0
  | .k1 => s.regs.k1
  | .word => s.regs.word
  | .val0 => s.regs.val0
  | .val1 => s.regs.val1
  | .val2 => s.regs.val2
  | .val3 => s.regs.val3
  | .extra => s.regs.extra.setWidth 64
  | .seed => s.regs.seed.setWidth 64
  | .src => s.regs.src.setWidth 64
  | .len => s.regs.len.setWidth 64
  | .aux => s.regs.aux.setWidth 64
  | .dst => s.regs.dst.setWidth 64
  | .index => s.regs.index.setWidth 64
  | .header => s.regs.header.setWidth 64
  | .sv0 => s.ctx.v.v0
  | .sv1 => s.ctx.v.v1
  | .sv2 => s.ctx.v.v2
  | .sv3 => s.ctx.v.v3
  | .scount => s.ctx.count
  | .stail => s.ctx.tail

/-- What a host write of a register amounts to (R71). -/
inductive RegWrite where
  /-- CMD: issue a command word (R17). -/
  | command (c : U32)
  /-- STATUS: clear the error or nothing (R19). -/
  | status
  /-- An operand register: the operand registers after the write. -/
  | operand (r : OperandRegs)
  /-- A read-only register (R120). -/
  | readOnly
deriving DecidableEq, Repr

/-- R71: a host write of `d` to a register, truncated to its width (R16). -/
def writeReg (r : OperandRegs) (d : U64) : Reg → RegWrite
  | .cmd => .command (d.setWidth 32)
  | .status => .status
  | .k0 => .operand { r with k0 := d }
  | .k1 => .operand { r with k1 := d }
  | .word => .operand { r with word := d }
  | .val0 => .operand { r with val0 := d }
  | .val1 => .operand { r with val1 := d }
  | .val2 => .operand { r with val2 := d }
  | .val3 => .operand { r with val3 := d }
  | .extra => .operand { r with extra := d.setWidth 32 }
  | .seed => .operand { r with seed := d.setWidth 32 }
  | .src => .operand { r with src := d.setWidth 32 }
  | .len => .operand { r with len := d.setWidth 32 }
  | .aux => .operand { r with aux := d.setWidth 32 }
  | .dst => .operand { r with dst := d.setWidth 32 }
  | .index => .operand { r with index := d.setWidth 32 }
  | .header => .operand { r with header := d.setWidth 8 }
  | .einfo | .result | .sv0 | .sv1 | .sv2 | .sv3 | .scount | .stail => .readOnly

/-- The DMEM operand `(SRC, LEN)` lies in DMEM (R45). -/
def State.dataInDmem (s : State) : Bool :=
  s.inDmem s.regs.src.toNat s.regs.len.toNat

/-- The DMEM operand `(SRC, LEN)`: the bytes `MemRead(x[SRC], x[LEN])` (R26). -/
def State.dataBytes (s : State) : List Byte :=
  s.memRead s.regs.src.toNat s.regs.len.toNat

end Sys2Proof.Machine
end

