-- ==== Sys2Proof/Machine/Primitives.lean ====
section
/-! DEFINITION. The pure functions the commands are built from (41_primitives.md R77 to R87). -/

namespace Sys2Proof.Machine

/-- R77. The core rotates only by 13 and 15 (R79; log 12). -/
def rotl32 (x : U32) (r : Nat) : U32 :=
  (x <<< r) ||| (x >>> (32 - r))

/-- R78. The core rotates only by 13, 16, 17, 21 and 32 (R79; log 12). -/
def rotl64 (x : U64) (b : Nat) : U64 :=
  (x <<< b) ||| (x >>> (64 - b))

/-! ### SipHash -/

/-- R80: the fourteen statements of SIPROUND, in order. -/
def sipRound (s : SipState) : SipState :=
  let v0 := s.v0 + s.v1
  let v1 := rotl64 s.v1 13
  let v1 := v1 ^^^ v0
  let v0 := rotl64 v0 32
  let v2 := s.v2 + s.v3
  let v3 := rotl64 s.v3 16
  let v3 := v3 ^^^ v2
  let v0 := v0 + v3
  let v3 := rotl64 v3 21
  let v3 := v3 ^^^ v0
  let v2 := v2 + v1
  let v1 := rotl64 v1 17
  let v1 := v1 ^^^ v2
  let v2 := rotl64 v2 32
  { v0 := v0, v1 := v1, v2 := v2, v3 := v3 }

/-- R81: absorb one 64-bit word. -/
def sipCompress (s : SipState) (m : U64) : SipState :=
  let t := sipRound (sipRound { s with v3 := s.v3 ^^^ m })
  { t with v0 := t.v0 ^^^ m }

/-- R86: the digest, with the final word `m`. -/
def sipFinish (s : SipState) (m : U64) : U64 :=
  let t := sipCompress s m
  let u := sipRound (sipRound (sipRound (sipRound { t with v2 := t.v2 ^^^ 0x00000000000000FF })))
  u.v0 ^^^ u.v1 ^^^ u.v2 ^^^ u.v3

/-- R87: the initial accumulators. -/
def sipIV (k0 k1 : U64) : SipState :=
  { v0 := 0x736f6d6570736575 ^^^ k0
    v1 := 0x646f72616e646f6d ^^^ k1
    v2 := 0x6c7967656e657261 ^^^ k0
    v3 := 0x7465646279746573 ^^^ k1 }

/-! ### Byte order -/

/-- R82 `LE32` of the sequence `b0 b1 b2 b3`. -/
def le32 (b0 b1 b2 b3 : Byte) : U32 :=
  b0.setWidth 32 ||| (b1.setWidth 32 <<< 8) ||| (b2.setWidth 32 <<< 16) ||| (b3.setWidth 32 <<< 24)

/-- The OR over j of `zext_64(s[j]) << 8(j0 + j)`. -/
def leFrom (j0 : Nat) : List Byte → U64
  | [] => 0
  | b :: s => (b.setWidth 64 <<< (8 * j0)) ||| leFrom (j0 + 1) s

/-- R82 `LEn` of a sequence of at most 8 bytes; of 8 bytes it is `LE64`. -/
def leBytes (s : List Byte) : U64 :=
  leFrom 0 s

/-- R83: the bytes of `w`, most significant first. -/
def be32Bytes (w : U32) : Vector Byte 4 :=
  #v[w.extractLsb' 24 8, w.extractLsb' 16 8, w.extractLsb' 8 8, w.extractLsb' 0 8]

/-! ### MurmurHash3 -/

/-- R84: the avalanche. -/
def fmix32 (h : U32) : U32 :=
  let h := h ^^^ (h >>> 16)
  let h := h * 0x85ebca6b
  let h := h ^^^ (h >>> 13)
  let h := h * 0xc2b2ae35
  h ^^^ (h >>> 16)

/-- R85: the key mix. -/
def murMix (k : U32) : U32 :=
  let k := k * 0xcc9e2d51
  let k := rotl32 k 15
  k * 0x1b873593

end Sys2Proof.Machine
end

