-- ==== Sys2Proof/Machine/Bip32.lean ====
section
/-! DEFINITION. The BIP32 child-hash framer BIP32H (45_bip32.md R109 to R113). -/

namespace Sys2Proof.Machine

/-- R110: the 37-byte message, header, key material, big-endian index. -/
def bip32Msg (header : Byte) (key : Vector Byte 32) (index : U32) : Vector Byte 37 :=
  #v[header] ++ key ++ be32Bytes index

/-- R109: AUX, SRC and DST all name ranges inside DMEM. -/
def State.bip32InDmem (s : State) : Bool :=
  s.inDmem s.regs.aux.toNat 32 && s.inDmem s.regs.src.toNat 32 && s.inDmem s.regs.dst.toNat 64

/-- R109, R111: the call BIP32H makes: the chain code as key, the message. -/
def State.bip32Call (s : State) : HmacCall :=
  { key := s.memReadVec s.regs.aux.toNat 32
    msg := bip32Msg s.regs.header (s.memReadVec s.regs.src.toNat 32) s.regs.index }

/-- R111: the answer of the HMAC unit. -/
def HmacCall.answer (c : HmacCall) : Vector Byte 64 :=
  Config.hmac512 c.key c.msg

/-- R109, R112: the effect of BIP32H. Both inputs are read before anything is written. -/
def bip32hEffect (s : State) : Except Cause State :=
  if s.bip32InDmem then
    .ok ((s.memWrite s.regs.dst.toNat s.bip32Call.answer.toList).recordCall s.bip32Call)
  else .error .dmemRange

/-- BIP32H (R109). -/
def execBip32h (s : State) : Host.Outcome State Fault Refusal :=
  runCommand (commandWord .bip32h) bip32hEffect s

end Sys2Proof.Machine
end

