-- ==== Sys2Proof/Machine/Murmur.lean ====
section
/-! DEFINITION. The MurmurHash3 x86_32 command MUR32 (44_murmur3.md R103 to R108). -/

namespace Sys2Proof.Machine

/-- R104: the step for one full block. -/
def murBlock (h k : U32) : U32 :=
  rotl32 (h ^^^ murMix k) 13 * 5 + 0xe6546b64

/-- R103: run the full 4-byte blocks from the first byte on; what is left is the tail. -/
def murBlocks : U32 → List Byte → U32 × List Byte
  | h, b0 :: b1 :: b2 :: b3 :: rest => murBlocks (murBlock h (le32 b0 b1 b2 b3)) rest
  | h, tail => (h, tail)

/-- R105: the tail of 0 to 3 bytes. -/
def murTail (h : U32) (t : List Byte) : U32 :=
  let k : U32 := 0
  let k := if 3 ≤ t.length then k ^^^ ((t.getD 2 0).setWidth 32 <<< 16) else k
  let k := if 2 ≤ t.length then k ^^^ ((t.getD 1 0).setWidth 32 <<< 8) else k
  if 1 ≤ t.length then h ^^^ murMix (k ^^^ (t.getD 0 0).setWidth 32) else h

/-- R103, R108: the digest of `data` under `seed`. The length is XORed as a u32 (R106). -/
def murmur3 (seed : U32) (data : List Byte) : U32 :=
  let (h, tail) := murBlocks seed data
  fmix32 (murTail h tail ^^^ BitVec.ofNat 32 data.length)

/-- R103: the effect of MUR32. -/
def mur32Effect (s : State) : Except Cause State :=
  if s.dataInDmem then .ok (s.withResult ((murmur3 s.regs.seed s.dataBytes).setWidth 64))
  else .error .dmemRange

/-- MUR32 (R103). -/
def execMur32 (s : State) : Host.Outcome State Fault Refusal :=
  runCommand (commandWord .mur32) mur32Effect s

end Sys2Proof.Machine
end

