-- ==== Sys2Proof/Machine/SipFixed.lean ====
section
/-! DEFINITION. The SipHash fixed-256 one-shot commands SIP256 and SIP256X (43_siphash_fixed256.md R98 to R102). They work on
locals only (R100). -/

namespace Sys2Proof.Machine

/-- R98, R99: the accumulators after the keys and the four limbs, low limb first. -/
def sipLimbs (r : OperandRegs) : SipState :=
  sipCompress (sipCompress (sipCompress (sipCompress (sipIV r.k0 r.k1) r.val0) r.val1) r.val2) r.val3

/-- R98: the digest of SIP256; the final word holds the length byte 32. -/
def sip256Digest (r : OperandRegs) : U64 :=
  sipFinish (sipLimbs r) 0x2000000000000000

/-- R99: the digest of SIP256X; the final word holds the length byte 36 and EXTRA. -/
def sip256xDigest (r : OperandRegs) : U64 :=
  sipFinish (sipLimbs r) (0x2400000000000000 ||| r.extra.setWidth 64)

/-- R98: the effect of SIP256. -/
def sip256Effect (s : State) : Except Cause State :=
  .ok (s.withResult (sip256Digest s.regs))

/-- R99: the effect of SIP256X. -/
def sip256xEffect (s : State) : Except Cause State :=
  .ok (s.withResult (sip256xDigest s.regs))

/-- SIP256 (R98). -/
def execSip256 (s : State) : Host.Outcome State Fault Refusal :=
  runCommand (commandWord .sip256) sip256Effect s

/-- SIP256X (R99). -/
def execSip256x (s : State) : Host.Outcome State Fault Refusal :=
  runCommand (commandWord .sip256x) sip256xEffect s

end Sys2Proof.Machine
end

