-- ==== Sys2Proof/Machine/SipStream.lean ====
section
/-! DEFINITION. The SipHash-2-4 streaming commands SIPINIT, SIPWORD, SIPBYTES and SIPFINAL (42_siphash_stream.md R88 to R97). -/

namespace Sys2Proof.Machine

/-- `ctx.count mod 8`: the bytes waiting in the tail (R28). -/
def SipCtx.pending (c : SipCtx) : Nat :=
  c.count.toNat % 8

/-- R91: absorb one byte. A full group is compressed without raising count again (C4). -/
def SipCtx.absorbByte (c : SipCtx) (b : Byte) : SipCtx :=
  let tail := c.tail ||| (b.setWidth 64 <<< (8 * c.pending))
  let count := c.count + 1
  if count.toNat % 8 = 0 then { c with v := sipCompress c.v tail, count := count, tail := 0 }
  else { c with count := count, tail := tail }

/-- R92: absorb a sequence of bytes, in order. -/
def SipCtx.absorbBytes (c : SipCtx) (s : List Byte) : SipCtx :=
  s.foldl SipCtx.absorbByte c

/-- R90: absorb one word at a group boundary. -/
def SipCtx.absorbWord (c : SipCtx) (w : U64) : SipCtx :=
  { c with v := sipCompress c.v w, count := c.count + 8 }

/-- R93: the digest of what has been absorbed. The context is not written. -/
def SipCtx.digest (c : SipCtx) : U64 :=
  sipFinish c.v (c.tail ||| (c.count <<< 56))

/-- R89: a fresh context. -/
def SipCtx.init (k0 k1 : U64) : SipCtx :=
  { v := sipIV k0 k1, count := 0, tail := 0, valid := true }

/-- R89: the effect of SIPINIT. -/
def sipinitEffect (s : State) : Except Cause State :=
  .ok (s.withCtx (SipCtx.init s.regs.k0 s.regs.k1))

/-- R90: the effect of SIPWORD. -/
def sipwordEffect (s : State) : Except Cause State :=
  if s.ctx.valid = false then .error .sipNoctx
  else if s.ctx.pending ≠ 0 then .error .sipUnaligned
  else .ok (s.withCtx (s.ctx.absorbWord s.regs.word))

/-- R92: the effect of SIPBYTES. -/
def sipbytesEffect (s : State) : Except Cause State :=
  if s.ctx.valid = false then .error .sipNoctx
  else if s.dataInDmem then .ok (s.withCtx (s.ctx.absorbBytes s.dataBytes))
  else .error .dmemRange

/-- R93: the effect of SIPFINAL. -/
def sipfinalEffect (s : State) : Except Cause State :=
  if s.ctx.valid = false then .error .sipNoctx
  else .ok (s.withResult s.ctx.digest)

/-- SIPINIT (R89). -/
def execSipinit (s : State) : Host.Outcome State Fault Refusal :=
  runCommand (commandWord .sipinit) sipinitEffect s

/-- SIPWORD (R90). -/
def execSipword (s : State) : Host.Outcome State Fault Refusal :=
  runCommand (commandWord .sipword) sipwordEffect s

/-- SIPBYTES (R92). -/
def execSipbytes (s : State) : Host.Outcome State Fault Refusal :=
  runCommand (commandWord .sipbytes) sipbytesEffect s

/-- SIPFINAL (R93). -/
def execSipfinal (s : State) : Host.Outcome State Fault Refusal :=
  runCommand (commandWord .sipfinal) sipfinalEffect s

end Sys2Proof.Machine
end

