-- ==== Sys2Proof/Machine/HostPort.lean ====
section
/-! DEFINITION. The host-port transactions HRD, HWR (with command dispatch), HRDB and HWRB (40_host_port.md R69 to R76), and
how the core takes the next thing the host does (20_memory.md R50). -/

namespace Sys2Proof.Machine

/-- HRD (R70): a failing read responds 0. -/
def execHrd (n : BitVec 8) (s : State) : Host.Outcome State Fault Refusal :=
  match regOfNumber n with
  | some r => .next (s.respond (.reg (s.readReg r)))
  | none => .next ((s.raiseError .badReg (transactionInfo false (n.setWidth 32))).respond (.reg 0))

/-- R72: run a command by its rule. -/
def execCommand (c : Command) (s : State) : Host.Outcome State Fault Refusal :=
  match c with
  | .mur32 => execMur32 s
  | .sipinit => execSipinit s
  | .sipword => execSipword s
  | .sipbytes => execSipbytes s
  | .sipfinal => execSipfinal s
  | .sip256 => execSip256 s
  | .sip256x => execSip256x s
  | .bip32h => execBip32h s

/-- R72: dispatch of the command word `c`: discarded undecoded while ERR = 1 (R124). -/
def dispatchCommand (c : U32) (s : State) : Host.Outcome State Fault Refusal :=
  if s.errs.err then .next s
  else
    match decodeCommand c with
    | .ok op => execCommand op s
    | .error _ => .next (s.raiseError .illegalCmd (commandInfo c))

/-- HWR (R71). -/
def execHwr (n : BitVec 8) (d : U64) (s : State) : Host.Outcome State Fault Refusal :=
  match (regOfNumber n).map (writeReg s.regs d) with
  | some (.command c) => dispatchCommand c s
  | some .status => .next (s.writeStatus d)
  | some (.operand r) => .next (s.withRegs r)
  | some .readOnly => .next (s.raiseError .badReg (transactionInfo true (n.setWidth 32)))
  | none => .next (s.raiseError .badReg (transactionInfo true (n.setWidth 32)))

/-- HRDB (R73): a failing read responds 0. -/
def execHrdb (a : U32) (s : State) : Host.Outcome State Fault Refusal :=
  if a.toNat < s.dmemSize then .next (s.respond (.byte (s.readByte a.toNat)))
  else .next ((s.raiseError .hostRange (transactionInfo false a)).respond (.byte 0))

/-- HWRB (R74). -/
def execHwrb (a : U32) (b : Byte) (s : State) : Host.Outcome State Fault Refusal :=
  if a.toNat < s.dmemSize then .next (s.writeByte a.toNat b)
  else .next (s.raiseError .hostRange (transactionInfo true a))

/-- What the core takes from the port. -/
inductive Taken where
  /-- Nothing, or a reset: the state after it. -/
  | settled (s : State)
  /-- A transaction: its instruction, and the state it runs in. -/
  | instr (i : Instr) (s : State)
  /-- An entry that is no transaction of R62. -/
  | malformed (why : DecodeError)

/-- Take the oldest event. With none the core waits (70_reset_and_hazards.md R135). A reset during a command abandons it and
drops the held transaction (R134). -/
def State.takeEvent (s : State) : Taken :=
  match s.port with
  | [] => .settled s
  | .transact t :: rest =>
    match decodeTransaction t with
    | .ok i => .instr i (s.withPort rest)
    | .error why => .malformed why
  | .reset :: rest => .settled (s.withPort rest).resetCore
  | .resetDuring c _ :: rest => .settled ((s.withPort rest).abandonCommand c).resetCore

/-- Let the host issue the frame whose bits are `w` next (log 8); nothing, where `w` is no frame. -/
def State.issueTableWord (s : State) (nbits w : Nat) : State :=
  match tableFrame nbits w with
  | some f => s.withPort (.transact f.issue :: s.port)
  | none => s

end Sys2Proof.Machine
end

