-- ==== Sys2Proof/Machine/Dispatch.lean ====
section
/-! DEFINITION. One arm per instruction of the opcode table, each one call of its meaning. -/

namespace Sys2Proof.Machine

/-- What an instruction does. A command arm is the command as issued by a write to CMD. -/
def exec (i : Instr) (s : State) : Host.Outcome State Fault Refusal :=
  match i with
  | .mur32 => Sys2Proof.Machine.execMur32 s
  | .sipinit => Sys2Proof.Machine.execSipinit s
  | .sipword => Sys2Proof.Machine.execSipword s
  | .sipbytes => Sys2Proof.Machine.execSipbytes s
  | .sipfinal => Sys2Proof.Machine.execSipfinal s
  | .sip256 => Sys2Proof.Machine.execSip256 s
  | .sip256x => Sys2Proof.Machine.execSip256x s
  | .bip32h => Sys2Proof.Machine.execBip32h s
  | .hrd n => Sys2Proof.Machine.execHrd n s
  | .hwr n d => Sys2Proof.Machine.execHwr n d s
  | .hrdb a => Sys2Proof.Machine.execHrdb a s
  | .hwrb a b => Sys2Proof.Machine.execHwrb a b s

end Sys2Proof.Machine
end

