-- ==== Sys2Proof/Machine/Step.lean ====
section
/-! DEFINITION. One step of the core: the next thing the host does, as one atomic step (20_memory.md R49, R50). -/

namespace Sys2Proof.Machine

/-- Take the oldest event of the port and run it. -/
def step (s : State) : Host.Outcome State Fault Refusal :=
  match s.takeEvent with
  | .settled t => .next t
  | .instr i t => exec i t
  | .malformed why => .refused (.malformedTransaction why)

/-- The host issues, as its next transaction, the opcode-table row of `nbits` bits whose bits are `w`: a command word by a
write to CMD (30_encoding.md R67). This stands for the host, which sends a program from outside (log 1). -/
def State.withFetchWord (s : State) (nbits w : Nat) : State :=
  s.issueTableWord nbits w

end Sys2Proof.Machine
end

