-- ==== Sys2Proof/Machine/Pseudo.lean ====
section
/-! DEFINITION. Pseudo-instructions (30_encoding.md R66) and the text of the assembler syntax (R64, R65), as functions to
lists of instructions and to strings. They are notation: the machine runs only what they expand to. -/

namespace Sys2Proof.Machine

/-- The pseudo-instructions of R66. The addresses of LOADB are unbounded naturals. -/
inductive Pseudo where
  | clrerr
  | loadb (a : Nat) (bytes : List Byte)
  | sipnew (k0 k1 : U64)
  | sipw (w : U64)
  | sipb (src len : U64)
  | mur (seed src len : U64)
  | sipu256 (k0 k1 l0 l1 l2 l3 : U64)
  | sipu256x (k0 k1 l0 l1 l2 l3 e : U64)
  | bip32 (cc idx hdr key dst : U64)
deriving DecidableEq, Repr

/-- A LOADB's last address must be a 32-bit DMEM address, or its HWRB has no encoding (R62). -/
def Pseudo.wellFormed : Pseudo → Bool
  | .loadb a bytes => a + bytes.length ≤ 2 ^ 32
  | _ => true

/-- The instruction `HWR <reg>, d`. -/
def hwrReg (r : Reg) (d : U64) : Instr :=
  .hwr (regNumberOf r) d

/-- R66: the HWRB transactions of `LOADB a, bytes`. -/
def loadBytes : Nat → List Byte → List Instr
  | _, [] => []
  | a, b :: bs => .hwrb (BitVec.ofNat 32 a) b :: loadBytes (a + 1) bs

/-- R66: the register writes the two fixed-256 pseudo-instructions share. -/
def loadLimbs (k0 k1 l0 l1 l2 l3 : U64) : List Instr :=
  [hwrReg .k0 k0, hwrReg .k1 k1, hwrReg .val0 l0, hwrReg .val1 l1, hwrReg .val2 l2, hwrReg .val3 l3]

/-- R66: the expansion of a pseudo-instruction, in order. -/
def Pseudo.expand : Pseudo → List Instr
  | .clrerr => [hwrReg .status 1]
  | .loadb a bytes => loadBytes a bytes
  | .sipnew k0 k1 => [hwrReg .k0 k0, hwrReg .k1 k1, .sipinit]
  | .sipw w => [hwrReg .word w, .sipword]
  | .sipb src len => [hwrReg .src src, hwrReg .len len, .sipbytes]
  | .mur seed src len => [hwrReg .seed seed, hwrReg .src src, hwrReg .len len, .mur32]
  | .sipu256 k0 k1 l0 l1 l2 l3 => loadLimbs k0 k1 l0 l1 l2 l3 ++ [.sip256]
  | .sipu256x k0 k1 l0 l1 l2 l3 e => loadLimbs k0 k1 l0 l1 l2 l3 ++ [hwrReg .extra e, .sip256x]
  | .bip32 cc idx hdr key dst =>
    [hwrReg .aux cc, hwrReg .index idx, hwrReg .header hdr, hwrReg .src key, hwrReg .dst dst, .bip32h]

/-- The name of a register (R13). -/
def regName : Reg → String
  | .cmd => "CMD"
  | .status => "STATUS"
  | .einfo => "EINFO"
  | .result => "RESULT"
  | .k0 => "K0"
  | .k1 => "K1"
  | .word => "WORD"
  | .val0 => "VAL0"
  | .val1 => "VAL1"
  | .val2 => "VAL2"
  | .val3 => "VAL3"
  | .extra => "EXTRA"
  | .seed => "SEED"
  | .src => "SRC"
  | .len => "LEN"
  | .aux => "AUX"
  | .dst => "DST"
  | .index => "INDEX"
  | .header => "HEADER"
  | .sv0 => "SV0"
  | .sv1 => "SV1"
  | .sv2 => "SV2"
  | .sv3 => "SV3"
  | .scount => "SCOUNT"
  | .stail => "STAIL"

/-- A register operand as text: its name, or `r<n>` (R65). -/
def regText (n : BitVec 8) : String :=
  match regOfNumber n with
  | some r => regName r
  | none => "r" ++ toString n.toNat

/-- The line of an instruction (R64, R65), values in decimal. -/
def instrText : Instr → String
  | .mur32 => "MUR32"
  | .sipinit => "SIPINIT"
  | .sipword => "SIPWORD"
  | .sipbytes => "SIPBYTES"
  | .sipfinal => "SIPFINAL"
  | .sip256 => "SIP256"
  | .sip256x => "SIP256X"
  | .bip32h => "BIP32H"
  | .hrd n => "HRD " ++ regText n
  | .hwr n d => "HWR " ++ regText n ++ ", " ++ toString d.toNat
  | .hrdb a => "HRDB " ++ toString a.toNat
  | .hwrb a b => "HWRB " ++ toString a.toNat ++ ", " ++ toString b.toNat

end Sys2Proof.Machine
end

