-- ==== Sys2Proof/Safety.lean ====
section
/-! DEFINITION. The terms the claims are made in: runs of a list of instructions (70_reset_and_hazards.md R145), which command
an instruction issues, and the invariants of the core. -/

namespace Sys2Proof.Machine

/-- Run instructions one after another (R68), each taken by the core in turn. -/
def runInstrs : List Instr → State → Host.Outcome State Fault Refusal
  | [], s => .next s
  | i :: is, s =>
    match exec i s with
    | .next t => runInstrs is t
    | .fault r => .fault r
    | .refused r => .refused r

/-- The command an instruction issues: a command does so itself, and so does a write of its word to CMD (R17, R72). -/
def issuedCommand : Instr → Option Command
  | .mur32 => some .mur32
  | .sipinit => some .sipinit
  | .sipword => some .sipword
  | .sipbytes => some .sipbytes
  | .sipfinal => some .sipfinal
  | .sip256 => some .sip256
  | .sip256x => some .sip256x
  | .bip32h => some .bip32h
  | .hwr n d => if n = 0 then (decodeCommand (d.setWidth 32)).toOption else none
  | .hrd _ => none
  | .hrdb _ => none
  | .hwrb _ _ => none

/-- The instruction is a host write to STATUS that clears the error (R19). -/
def clearsError : Instr → Bool
  | .hwr n d => n == 1 && d.getLsbD 0
  | _ => false

/-- `P` holds of no instruction of a run, in the state it starts in. -/
def NeverAlong (P : Instr → State → Prop) : List Instr → State → Prop
  | [], _ => True
  | i :: is, s => ¬ P i s ∧ ∀ t, exec i s = .next t → NeverAlong P is t

/-! ### Invariants -/

/-- DMEM_SIZE is a legal size (20_memory.md R38). -/
abbrev State.SizeInv (s : State) : Prop :=
  Config.dmemSizeMin ≤ s.dmemSize ∧ s.dmemSize ≤ Config.dmemSizeMax

/-- The list of written bytes is in its canonical form and names DMEM addresses only (R38). -/
abbrev State.MemInv (s : State) : Prop :=
  s.dmem.wf ∧ ∀ c ∈ s.dmem, c.1 < s.dmemSize

/-- The tail holds exactly the pending bytes (10_state.md R28). -/
abbrev State.CtxInv (s : State) : Prop :=
  s.ctx.tail.toNat < 2 ^ (8 * (s.ctx.count.toNat % 8))

/-- ECAUSE and EINFO are 0 while ERR = 0 (R18, R20); while ERR = 1 ECAUSE is one of the six causes (60_exceptions.md R115);
EINFO[63:33] = 0 (R20). -/
abbrev State.ErrInv (s : State) : Prop :=
  (s.errs.err = false → s.errs.ecause = 0 ∧ s.errs.einfo = 0) ∧
  (s.errs.err = true → 1 ≤ s.errs.ecause.toNat ∧ s.errs.ecause.toNat ≤ 6) ∧
  s.errs.einfo.toNat < 2 ^ 33

/-- All the invariants of the core. -/
abbrev State.Inv (s : State) : Prop :=
  s.SizeInv ∧ s.MemInv ∧ s.CtxInv ∧ s.ErrInv

end Sys2Proof.Machine
end

