-- ==== Sys2Proof/Reference.lean ====
section
/-! DEFINITION. The spec's closed forms, written apart from the commands' own loops and in the spec's index notation:
`SipHash24` (42_siphash_stream.md R97) and MurmurHash3 (44_murmur3.md R103 to R106, R108). Claims compare the machine with them. -/

namespace Sys2Proof.Machine

/-- `s[i..i+n)` (00_scope.md R9). -/
def slice (s : List Byte) (i n : Nat) : List Byte :=
  (s.drop i).take n

/-- The bytes of a word, least significant first: what a SIPWORD contributes (R97). -/
def wordBytes (w : U64) : List Byte :=
  (List.range 8).map fun j => w.extractLsb' (8 * j) 8

/-- The four bytes of a u32, least significant first (43_siphash_fixed256.md R102). -/
def wordBytes32 (w : U32) : List Byte :=
  (List.range 4).map fun j => w.extractLsb' (8 * j) 8

/-- Compress every full 8-byte group of `m`, in order, into `v` (R97). -/
def compressGroups (v : SipState) (m : List Byte) : SipState :=
  (List.range (m.length / 8)).foldl (fun v j => sipCompress v (leBytes (slice m (8 * j) 8))) v

/-- The bytes of `m` after its last full group. -/
def lastGroup (m : List Byte) : List Byte :=
  m.drop (8 * (m.length / 8))

/-- R97: `SipHash24(k0, k1, M)`. -/
def sipHash24 (k0 k1 : U64) (m : List Byte) : U64 :=
  sipFinish (compressGroups (sipIV k0 k1) m)
    (leBytes (lastGroup m) ||| (BitVec.ofNat 64 (m.length % 256) <<< 56))

/-- R103 to R106: `Murmur3_32(seed, D)`, the blocks by their index and the tail as `LEr` (R105). -/
def murmurReference (seed : U32) (d : List Byte) : U32 :=
  let h := (List.range (d.length / 4)).foldl
    (fun h i => murBlock h ((leBytes (slice d (4 * i) 4)).setWidth 32)) seed
  let h := h ^^^ murMix ((leBytes (d.drop (4 * (d.length / 4)))).setWidth 32)
  fmix32 (h ^^^ BitVec.ofNat 32 d.length)

/-- The bytes an instruction adds to the stream when it runs in `s` (R97): those of WORD for a SIPWORD that succeeds, those of
the operand for a SIPBYTES that succeeds, none otherwise. -/
def contributed (i : Instr) (s : State) : List Byte :=
  if s.errs.err = true ∨ s.ctx.valid = false then []
  else
    match issuedCommand i with
    | some .sipword => if s.ctx.count.toNat % 8 = 0 then wordBytes s.regs.word else []
    | some .sipbytes =>
      if s.regs.src.toNat + s.regs.len.toNat ≤ s.dmemSize then s.memRead s.regs.src.toNat s.regs.len.toNat else []
    | _ => []

/-- The bytes absorbed along a run (R97). -/
def absorbedAlong : List Instr → State → List Byte
  | [], _ => []
  | i :: is, s =>
    contributed i s ++
      match exec i s with
      | .next t => absorbedAlong is t
      | _ => []

/-- A SIPWORD for each word, WORD loaded first (R94). -/
def sipwordRun (ws : List U64) : List Instr :=
  ws.flatMap fun w => [hwrReg .word w, .sipword]

/-- A SIPBYTES for each length, over consecutive bytes from `a` (R94). -/
def sipbytesRun : Nat → List Nat → List Instr
  | _, [] => []
  | a, n :: ns => [hwrReg .src (BitVec.ofNat 64 a), hwrReg .len (BitVec.ofNat 64 n), .sipbytes] ++ sipbytesRun (a + n) ns

end Sys2Proof.Machine
end

