-- ==== Sys2Proof/Certificates/Slice0/Obligations.lean ====
section
/-! DEFINITION. The statements for the provers: what the spec's numbered rules say the core does. -/

open Sys2Proof Sys2Proof.Machine

/-! ### Encoding -/

/-- 30_encoding.md: the frame of every instruction, with every operand at every value, decodes to that instruction. -/
def Obligations.DecodeOfEncodeIsTheInstruction : Prop :=
  ∀ i : Instr, decode (encode i) = .ok i

/-- 30_encoding.md: each instruction has one frame: a frame that decodes is the encoding of what it decodes to. -/
def Obligations.DecodedFrameIsTheEncoding : Prop :=
  ∀ (f : Frame) (i : Instr), decode f = .ok i → encode i = f

/-- 30_encoding.md: the decoder accepts exactly the legal command words and the transactions of R62. -/
def Obligations.DecoderAcceptsExactlyTheWellFormedFrames : Prop :=
  ∀ f : Frame, (∃ i, decode f = .ok i) ↔ f.wellFormed = true

/-- R58: the eight full command words; and one host transaction of each kind of R63, as its triple (KIND, A, D). -/
def Obligations.OpcodeMapAndTransactionKinds : Prop :=
  decode (.cmdw 0x00000001) = .ok .mur32 ∧
  decode (.cmdw 0x00000010) = .ok .sipinit ∧
  decode (.cmdw 0x00000011) = .ok .sipword ∧
  decode (.cmdw 0x00000012) = .ok .sipbytes ∧
  decode (.cmdw 0x00000013) = .ok .sipfinal ∧
  decode (.cmdw 0x00000020) = .ok .sip256 ∧
  decode (.cmdw 0x00000021) = .ok .sip256x ∧
  decode (.cmdw 0x00000030) = .ok .bip32h ∧
  decode (.host ⟨0, 23, none⟩) = .ok (.hrd 23) ∧
  decode (.host ⟨1, 4, some 0x0706050403020100⟩) = .ok (.hwr 4 0x0706050403020100) ∧
  decode (.host ⟨2, 0x1000, none⟩) = .ok (.hrdb 0x1000) ∧
  decode (.host ⟨3, 0x40, some 0xAB⟩) = .ok (.hwrb 0x40 0xAB)

/-! ### Steps -/

/-- 20_memory.md R50, 40_host_port.md R69: a step takes the oldest transaction and runs the instruction it decodes to, in the
state without that transaction. (The list of pending transactions is the model's own, log 1.) -/
def Obligations.StepRunsTheDecodedTransaction : Prop :=
  ∀ (s : State) (t : Transaction) (rest : List HostEvent) (i : Instr),
    s.port = .transact t :: rest → decode (.host t) = .ok i → step s = exec i (s.withPort rest)

/-- 30_encoding.md R67: issuing an instruction by its encoded transaction, a command by a write of its word to CMD, runs that
instruction. (The list of pending transactions is the model's own, log 1.) -/
def Obligations.StepRunsTheIssuedInstruction : Prop :=
  ∀ (s : State) (i : Instr) (rest : List HostEvent),
    s.port = .transact i.issue :: rest → step s = exec i (s.withPort rest)

/-- 70_reset_and_hazards.md R135: with nothing issued the core waits. (MODEL'S CHOICE, log 1: waiting is a step that changes
nothing.) -/
def Obligations.StepWaitsForTheHost : Prop :=
  ∀ s : State, s.port = [] → step s = .next s

/-- 60_exceptions.md R114, 70_reset_and_hazards.md R143: no instruction halts the core; each one gives a next state. -/
def Obligations.EveryInstructionAnswersANextState : Prop :=
  ∀ (i : Instr) (s : State), ∃ t, exec i s = .next t

/-! ### Reset -/

/-- R132: reset sets every register to its reset value, 0, as reads show; ERR, ECAUSE, EINFO, RESULT and the operand registers
are all 0. -/
def Obligations.ResetClearsEveryRegister : Prop :=
  ∀ (s : State) (rest : List HostEvent), s.port = .reset :: rest →
    ∃ t, step s = .next t ∧ (∀ r : Reg, t.readReg r = 0) ∧
      t.errs = ⟨false, 0, 0⟩ ∧ t.result = 0 ∧ t.regs = ⟨0, 0, 0, 0, 0, 0, 0, 0, 0, 0, 0, 0, 0, 0, 0⟩

/-- R133: reset clears the context, which then reads as zeros and meets the invariant of R28; SIPWORD, SIPBYTES and SIPFINAL
raise SIP_NOCTX (cause 2) until a SIPINIT runs. -/
def Obligations.ResetContextIsUnusableUntilSipinit : Prop :=
  ∀ (s : State) (rest : List HostEvent), s.port = .reset :: rest →
    ∃ t, step s = .next t ∧ t.ctx = ⟨⟨0, 0, 0, 0⟩, 0, 0, false⟩ ∧ t.CtxInv ∧
      (∀ r ∈ [Reg.sv0, .sv1, .sv2, .sv3, .scount, .stail], t.readReg r = 0) ∧
      ∀ (p : List Instr) (u : State), (∀ i ∈ p, issuedCommand i ≠ some .sipinit) → runInstrs p t = .next u →
        u.errs.err = false →
        exec .sipword u = .next { u with errs := ⟨true, 2, 0x11⟩ } ∧
        exec .sipbytes u = .next { u with errs := ⟨true, 2, 0x12⟩ } ∧
        exec .sipfinal u = .next { u with errs := ⟨true, 2, 0x13⟩ }

/-- 70_reset_and_hazards.md R134: reset leaves DMEM unchanged. During a command it abandons the command: registers and context
take their reset values, the held transaction is dropped and not answered, and DMEM is unchanged but for the output range of a
BIP32H, about whose bytes nothing is said. (MODEL'S CHOICE, log 6: the form of such a reset, and that a BIP32H that would fail
its range check counts too.) -/
def Obligations.ResetDuringACommandAbandonsIt : Prop :=
  (∀ (s : State) (rest : List HostEvent), s.port = .reset :: rest →
    ∃ t, step s = .next t ∧ t.port = rest ∧ ∀ a, t.readByte a = s.readByte a) ∧
  (∀ (s : State) (c : U32) (held : Option Transaction) (rest : List HostEvent), s.port = .resetDuring c held :: rest →
    ∃ t, step s = .next t ∧ t.port = rest ∧ t.responses = s.responses ∧
      (∀ r : Reg, t.readReg r = 0) ∧ t.ctx = ⟨⟨0, 0, 0, 0⟩, 0, 0, false⟩ ∧
      (c ≠ 0x30 → ∀ a, t.readByte a = s.readByte a) ∧
      (c = 0x30 → ∀ a, (a < s.regs.dst.toNat ∨ s.regs.dst.toNat + 64 ≤ a) → t.readByte a = s.readByte a))

/-- 10_state.md R13, 70_reset_and_hazards.md R132, R133: the registers and the context of the reset state. -/
def Obligations.ResetStateRegisters : Prop :=
  (∀ r : Reg, State.reset.readReg r = 0) ∧ State.reset.ctx = ⟨⟨0, 0, 0, 0⟩, 0, 0, false⟩

/-- The reset state meets every invariant of the core. (MODEL'S CHOICE, log 3: its DMEM_SIZE is the reference value of R8.) -/
def Obligations.ResetStateMeetsTheInvariants : Prop :=
  State.reset.Inv

/-! ### Invariants of every step -/

/-- 20_memory.md R38: every step keeps the list of written bytes in its canonical form, its addresses below DMEM_SIZE.
(MODEL'S CHOICE, log 5: DMEM is held as a list of written bytes.) -/
def Obligations.StepKeepsDmemCanonical : Prop :=
  ∀ s t : State, s.MemInv → step s = .next t → t.MemInv

/-- 10_state.md R28: every step keeps the tail below 2^(8p), p the pending bytes. -/
def Obligations.StepKeepsTheContextInvariant : Prop :=
  ∀ s t : State, s.CtxInv → step s = .next t → t.CtxInv

/-- 10_state.md R18, R20, 60_exceptions.md R115: every step keeps ECAUSE and EINFO 0 while ERR = 0, ECAUSE one of the six
causes while ERR = 1, and EINFO[63:33] = 0. -/
def Obligations.StepKeepsTheErrorInvariant : Prop :=
  ∀ s t : State, s.ErrInv → step s = .next t → t.ErrInv

/-- 10_state.md R33: DMEM_SIZE is configuration: no step changes it. (MODEL'S CHOICE, log 3: it is carried in the state.) -/
def Obligations.StepKeepsDmemSize : Prop :=
  ∀ s t : State, step s = .next t → t.dmemSize = s.dmemSize

/-! ### Who writes what -/

/-- 10_state.md R30, R34: only SIPINIT makes the context valid, and no instruction makes it invalid. -/
def Obligations.OnlySipinitChangesContextValid : Prop :=
  ∀ (i : Instr) (s t : State), exec i s = .next t →
    (s.ctx.valid = true → t.ctx.valid = true) ∧
    (s.ctx.valid = false → t.ctx.valid = true → issuedCommand i = some .sipinit)

/-- 10_state.md R15: no command writes an operand register; only a host write to that register does. -/
def Obligations.OnlyRegisterWritesChangeOperandRegisters : Prop :=
  ∀ (i : Instr) (s t : State), exec i s = .next t → ∀ r : Reg, isOperandReg r = true → t.readReg r ≠ s.readReg r →
    ∃ d, i = .hwr (regNumberOf r) d

/-- 10_state.md R21: only MUR32, SIPFINAL, SIP256 and SIP256X change RESULT, and only while ERR = 0. -/
def Obligations.OnlyDigestCommandsChangeResult : Prop :=
  ∀ (i : Instr) (s t : State), exec i s = .next t → t.result ≠ s.result →
    s.errs.err = false ∧
    (issuedCommand i = some .mur32 ∨ issuedCommand i = some .sipfinal ∨ issuedCommand i = some .sip256 ∨
      issuedCommand i = some .sip256x)

/-- 10_state.md R28, R29, R36: only SIPINIT, SIPWORD and SIPBYTES change the context; no host write does. -/
def Obligations.OnlyStreamCommandsChangeTheContext : Prop :=
  ∀ (i : Instr) (s t : State), exec i s = .next t → t.ctx ≠ s.ctx →
    s.errs.err = false ∧
    (issuedCommand i = some .sipinit ∨ issuedCommand i = some .sipword ∨ issuedCommand i = some .sipbytes)

/-- 20_memory.md R39: only HWRB at that address and BIP32H over its output range change a byte of DMEM. -/
def Obligations.OnlyHwrbAndBip32hChangeDmem : Prop :=
  ∀ (i : Instr) (s t : State), exec i s = .next t → ∀ a : Nat, t.readByte a ≠ s.readByte a →
    a < s.dmemSize ∧
    ((∃ (x : U32) (b : Byte), i = .hwrb x b ∧ x.toNat = a) ∨
      (issuedCommand i = some .bip32h ∧ s.regs.dst.toNat ≤ a ∧ a < s.regs.dst.toNat + 64))

/-- 10_state.md R20, R34: ERR, ECAUSE and EINFO change only by a capture while ERR = 0 or by a STATUS write with bit 0 = 1,
which leaves them 0. -/
def Obligations.OnlyCaptureAndClearChangeTheError : Prop :=
  ∀ (i : Instr) (s t : State), exec i s = .next t → t.errs ≠ s.errs →
    (s.errs.err = false ∧ t.errs.err = true) ∨ (clearsError i = true ∧ t.errs = ⟨false, 0, 0⟩)

/-- 20_memory.md R53, R54: one HMAC call per BIP32H that succeeds, and none otherwise. (MODEL'S CHOICE, log 4: calls are kept
in the state, in order.) -/
def Obligations.OneHmacCallPerSuccessfulBip32h : Prop :=
  ∀ (i : Instr) (s t : State), exec i s = .next t →
    if issuedCommand i = some .bip32h ∧ s.errs.err = false ∧ s.regs.aux.toNat + 32 ≤ s.dmemSize ∧
        s.regs.src.toNat + 32 ≤ s.dmemSize ∧ s.regs.dst.toNat + 64 ≤ s.dmemSize
    then ∃ c : HmacCall, t.hmacCalls = s.hmacCalls ++ [c]
    else t.hmacCalls = s.hmacCalls

/-- 30_encoding.md R62, 40_host_port.md R69: a read, failing or not, gives one response; nothing else gives any.
(MODEL'S CHOICE, log 2: responses are kept in the state, in order.) -/
def Obligations.EachReadGivesOneResponse : Prop :=
  ∀ (i : Instr) (s t : State), exec i s = .next t →
    match i with
    | .hrd _ => ∃ v, t.responses = s.responses ++ [.reg v]
    | .hrdb _ => ∃ b, t.responses = s.responses ++ [.byte b]
    | _ => t.responses = s.responses

/-! ### Errors -/

/-- R116: a write to CMD whose low 32 bits have RSV ≠ 0 or an unassigned OPC raises ILLEGAL_CMD; no command runs. -/
def Obligations.IllegalCommandWordIsCaptured : Prop :=
  ∀ (s : State) (d : U64), s.errs.err = false →
    ((d.setWidth 32).extractLsb' 8 24 ≠ 0 ∨
      (d.setWidth 32).extractLsb' 0 8 ∉ ([0x01, 0x10, 0x11, 0x12, 0x13, 0x20, 0x21, 0x30] : List (BitVec 8))) →
    exec (.hwr 0 d) s = .next { s with errs := ⟨true, 1, (d.setWidth 32).setWidth 64⟩ }

/-- R117: SIPWORD, SIPBYTES and SIPFINAL while `ctx.valid = 0` raise SIP_NOCTX and change nothing else, whatever the count and
the operands. -/
def Obligations.StreamCommandWithoutContextIsCaptured : Prop :=
  ∀ s : State, s.errs.err = false → s.ctx.valid = false →
    exec .sipword s = .next { s with errs := ⟨true, 2, 0x11⟩ } ∧
    exec .sipbytes s = .next { s with errs := ⟨true, 2, 0x12⟩ } ∧
    exec .sipfinal s = .next { s with errs := ⟨true, 2, 0x13⟩ }

/-- R118: SIPWORD while `ctx.count mod 8 ≠ 0` raises SIP_UNALIGNED and changes nothing else. -/
def Obligations.UnalignedSipwordIsCaptured : Prop :=
  ∀ s : State, s.errs.err = false → s.ctx.valid = true → s.ctx.count.toNat % 8 ≠ 0 →
    exec .sipword s = .next { s with errs := ⟨true, 3, 0x11⟩ }

/-- R119: a command operand outside DMEM raises DMEM_RANGE; no HMAC call is made and nothing else is written. -/
def Obligations.OperandOutsideDmemIsCaptured : Prop :=
  ∀ s : State, s.errs.err = false →
    (s.regs.src.toNat + s.regs.len.toNat > s.dmemSize →
      exec .mur32 s = .next { s with errs := ⟨true, 4, 0x01⟩ } ∧
      (s.ctx.valid = true → exec .sipbytes s = .next { s with errs := ⟨true, 4, 0x12⟩ })) ∧
    (s.regs.aux.toNat + 32 > s.dmemSize ∨ s.regs.src.toNat + 32 > s.dmemSize ∨ s.regs.dst.toNat + 64 > s.dmemSize →
      exec .bip32h s = .next { s with errs := ⟨true, 4, 0x30⟩ })

/-- 20_memory.md R45: the range check does not wrap, and a zero-length operand at DMEM_SIZE is legal. -/
def Obligations.RangeCheckDoesNotWrap : Prop :=
  (∀ s : State, s.SizeInv → s.errs.err = false → s.regs.src = 0xFFFFFFF0 → s.regs.len = 0x20 →
    exec .mur32 s = .next { s with errs := ⟨true, 4, 0x01⟩ }) ∧
  (∀ s : State, s.errs.err = false → s.regs.src.toNat = s.dmemSize → s.regs.len = 0 →
    ∃ v, exec .mur32 s = .next { s with result := v })

/-- R125: the priority of errors within one command: discard, ILLEGAL_CMD, SIP_NOCTX, SIP_UNALIGNED, DMEM_RANGE. -/
def Obligations.CommandErrorPriority : Prop :=
  (∀ s : State, s.errs.err = true →
    (∀ c : Command, exec c.toInstr s = .next s) ∧ ∀ d : U64, exec (.hwr 0 d) s = .next s) ∧
  (∀ (s : State) (d : U64), s.errs.err = false → (∀ c : Command, decode (.cmdw (d.setWidth 32)) ≠ .ok c.toInstr) →
    exec (.hwr 0 d) s = .next { s with errs := ⟨true, 1, (d.setWidth 32).setWidth 64⟩ }) ∧
  (∀ s : State, ∃ t, exec .sipword s = .next t ∧
    t.errs = if s.errs.err then s.errs
      else if s.ctx.valid = false then ⟨true, 2, 0x11⟩
      else if s.ctx.count.toNat % 8 ≠ 0 then ⟨true, 3, 0x11⟩ else s.errs) ∧
  (∀ s : State, ∃ t, exec .sipbytes s = .next t ∧
    t.errs = if s.errs.err then s.errs
      else if s.ctx.valid = false then ⟨true, 2, 0x12⟩
      else if s.regs.src.toNat + s.regs.len.toNat > s.dmemSize then ⟨true, 4, 0x12⟩ else s.errs) ∧
  (∀ s : State, ∃ t, exec .sipfinal s = .next t ∧
    t.errs = if s.errs.err then s.errs else if s.ctx.valid = false then ⟨true, 2, 0x13⟩ else s.errs) ∧
  (∀ s : State, ∃ t, exec .mur32 s = .next t ∧
    t.errs = if s.errs.err then s.errs
      else if s.regs.src.toNat + s.regs.len.toNat > s.dmemSize then ⟨true, 4, 0x01⟩ else s.errs) ∧
  (∀ s : State, ∃ t, exec .bip32h s = .next t ∧
    t.errs = if s.errs.err then s.errs
      else if s.regs.aux.toNat + 32 > s.dmemSize ∨ s.regs.src.toNat + 32 > s.dmemSize ∨ s.regs.dst.toNat + 64 > s.dmemSize
        then ⟨true, 4, 0x30⟩ else s.errs)

/-- 60_exceptions.md R123, R124, 70_reset_and_hazards.md R144: from an error until the host clears it, ERR, ECAUSE and EINFO keep
describing the first error, RESULT and the context stay frozen, no HMAC call is made, and DMEM changes only by HWRB. -/
def Obligations.ErrorFreezesTheCoreUntilCleared : Prop :=
  ∀ (p : List Instr) (s t : State), s.errs.err = true → (∀ i ∈ p, clearsError i = false) → runInstrs p s = .next t →
    t.errs = s.errs ∧ t.result = s.result ∧ t.ctx = s.ctx ∧ t.hmacCalls = s.hmacCalls ∧
    ∀ a : Nat, (∀ (x : U32) (b : Byte), Instr.hwrb x b ∈ p → x.toNat ≠ a) → t.readByte a = s.readByte a

/-! ### Host port -/

/-- R70: HRD has KIND 0; what a host read of each register gives; an unmapped number raises BAD_REG and reads 0. Nothing else
changes. -/
def Obligations.RegisterReadTable : Prop :=
  (∀ n : BitVec 8, decode (.host ⟨0, n.setWidth 32, none⟩) = .ok (.hrd n)) ∧
  (∀ (s : State) (n : BitVec 8) (v : U64),
    (n, v) ∈ ([(0, 0),
      (1, (s.errs.ecause.setWidth 64 <<< 8) ||| ((BitVec.ofBool s.ctx.valid).setWidth 64 <<< 1) |||
        (BitVec.ofBool s.errs.err).setWidth 64),
      (2, s.errs.einfo), (3, s.result), (4, s.regs.k0), (5, s.regs.k1), (6, s.regs.word),
      (7, s.regs.val0), (8, s.regs.val1), (9, s.regs.val2), (10, s.regs.val3),
      (11, s.regs.extra.setWidth 64), (12, s.regs.seed.setWidth 64), (13, s.regs.src.setWidth 64),
      (14, s.regs.len.setWidth 64), (15, s.regs.aux.setWidth 64), (16, s.regs.dst.setWidth 64),
      (17, s.regs.index.setWidth 64), (18, s.regs.header.setWidth 64),
      (19, s.ctx.v.v0), (20, s.ctx.v.v1), (21, s.ctx.v.v2), (22, s.ctx.v.v3), (23, s.ctx.count),
      (24, s.ctx.tail)] : List (BitVec 8 × U64)) →
    exec (.hrd n) s = .next { s with responses := s.responses ++ [.reg v] }) ∧
  (∀ (s : State) (n : BitVec 8), 25 ≤ n.toNat →
    exec (.hrd n) s = .next { s with
      errs := if s.errs.err then s.errs else ⟨true, 5, n.setWidth 64⟩
      responses := s.responses ++ [.reg 0] })

/-- R71, R19: HWR has KIND 1; what a host write of each register does: CMD dispatches, STATUS clears, an operand register stores
the value truncated to its width, and a read-only or unmapped number raises BAD_REG. Nothing else changes. -/
def Obligations.RegisterWriteTable : Prop :=
  (∀ (n : BitVec 8) (d : U64), decode (.host ⟨1, n.setWidth 32, some d⟩) = .ok (.hwr n d)) ∧
  (∀ (s : State) (d : U64), exec (.hwr 0 d) s = dispatchCommand (d.setWidth 32) s) ∧
  (∀ (s : State) (d : U64),
    exec (.hwr 1 d) s = .next { s with errs := if d.getLsbD 0 then ⟨false, 0, 0⟩ else s.errs }) ∧
  (∀ (s : State) (d : U64) (n : BitVec 8) (r : OperandRegs),
    (n, r) ∈ ([(4, { s.regs with k0 := d }), (5, { s.regs with k1 := d }), (6, { s.regs with word := d }),
      (7, { s.regs with val0 := d }), (8, { s.regs with val1 := d }), (9, { s.regs with val2 := d }),
      (10, { s.regs with val3 := d }), (11, { s.regs with extra := d.setWidth 32 }),
      (12, { s.regs with seed := d.setWidth 32 }), (13, { s.regs with src := d.setWidth 32 }),
      (14, { s.regs with len := d.setWidth 32 }), (15, { s.regs with aux := d.setWidth 32 }),
      (16, { s.regs with dst := d.setWidth 32 }), (17, { s.regs with index := d.setWidth 32 }),
      (18, { s.regs with header := d.setWidth 8 })] : List (BitVec 8 × OperandRegs)) →
    exec (.hwr n d) s = .next { s with regs := r }) ∧
  (∀ (s : State) (d : U64) (n : BitVec 8), (n ∈ ([2, 3, 19, 20, 21, 22, 23, 24] : List (BitVec 8)) ∨ 25 ≤ n.toNat) →
    exec (.hwr n d) s = .next { s with
      errs := if s.errs.err then s.errs else ⟨true, 5, 0x100000000 ||| n.setWidth 64⟩ })

/-- R72: dispatch: discarded while ERR = 1; an Illegal word raises ILLEGAL_CMD; a command runs by its rule, and an error inside it
is captured with the command word as EINFO. -/
def Obligations.CommandDispatch : Prop :=
  ∀ (s : State) (c : U32),
    (s.errs.err = true → dispatchCommand c s = .next s) ∧
    (s.errs.err = false → (∀ op : Command, decode (.cmdw c) ≠ .ok op.toInstr) →
      dispatchCommand c s = .next { s with errs := ⟨true, 1, c.setWidth 64⟩ }) ∧
    (s.errs.err = false → ∀ op : Command, decode (.cmdw c) = .ok op.toInstr →
      dispatchCommand c s = exec op.toInstr s ∧
      ∀ t, exec op.toInstr s = .next t → t.errs ≠ s.errs → t.errs.einfo = c.setWidth 64)

/-- 10_state.md R18: the bits of a STATUS read: ERR, SIPV, ECAUSE, and zeros elsewhere. -/
def Obligations.StatusReadBits : Prop :=
  ∀ (s : State) (k : Nat), k < 64 →
    (s.readReg .status).getLsbD k =
      if k = 0 then s.errs.err
      else if k = 1 then s.ctx.valid
      else if 8 ≤ k ∧ k < 16 then s.errs.ecause.getLsbD (k - 8)
      else false

/-- R73: HRDB has KIND 2 and answers the byte of DMEM, or 0 with HOST_RANGE; nothing else changes. -/
def Obligations.DmemByteRead : Prop :=
  ∀ (s : State) (a : U32),
    decode (.host ⟨2, a, none⟩) = .ok (.hrdb a) ∧
    (a.toNat < s.dmemSize →
      exec (.hrdb a) s = .next { s with responses := s.responses ++ [.byte (s.readByte a.toNat)] }) ∧
    (s.dmemSize ≤ a.toNat →
      exec (.hrdb a) s = .next { s with
        errs := if s.errs.err then s.errs else ⟨true, 6, a.setWidth 64⟩
        responses := s.responses ++ [.byte 0] })

/-- R74: HWRB has KIND 3 and writes the one byte of DMEM, or raises HOST_RANGE; nothing else changes. -/
def Obligations.DmemByteWrite : Prop :=
  ∀ (s : State) (a : U32) (b : Byte),
    decode (.host ⟨3, a, some (b.setWidth 64)⟩) = .ok (.hwrb a b) ∧
    (a.toNat < s.dmemSize →
      ∃ t, exec (.hwrb a b) s = .next t ∧ t = { s with dmem := t.dmem } ∧ t.readByte a.toNat = b ∧
        ∀ x, x ≠ a.toNat → t.readByte x = s.readByte x) ∧
    (s.dmemSize ≤ a.toNat →
      exec (.hwrb a b) s = .next { s with
        errs := if s.errs.err then s.errs else ⟨true, 6, 0x100000000 ||| a.setWidth 64⟩ })

/-- R75: the round trip on the port. A value written to a read-write register reads back truncated to its width and
zero-extended, and a byte written to DMEM reads back, after any instructions that do not write there. -/
def Obligations.PortRoundTrip : Prop :=
  (∀ (r : Reg) (d : U64) (p : List Instr) (s t : State), isOperandReg r = true →
    (∀ d', Instr.hwr (regNumberOf r) d' ∉ p) →
    runInstrs (.hwr (regNumberOf r) d :: p) s = .next t →
    exec (.hrd (regNumberOf r)) t = .next { t with
      responses := t.responses ++ [.reg (BitVec.ofNat 64 (d.toNat % 2 ^ regWidth r))] }) ∧
  (∀ (a : U32) (b : Byte) (p : List Instr) (s t u : State), a.toNat < s.dmemSize →
    exec (.hwrb a b) s = .next t →
    NeverAlong (fun i v => (∃ b', i = .hwrb a b') ∨ (issuedCommand i = some .bip32h ∧ v.errs.err = false ∧
      v.bip32InDmem = true ∧ v.regs.dst.toNat ≤ a.toNat ∧ a.toNat < v.regs.dst.toNat + 64)) p t →
    runInstrs p t = .next u →
    exec (.hrdb a) u = .next { u with responses := u.responses ++ [.byte b] })

/-- 30_encoding.md R66: LOADB loads its bytes: a later MemRead of the range gives them, and every other byte is as before. -/
def Obligations.LoadbLoadsItsBytes : Prop :=
  ∀ (s : State) (a : Nat) (bs : List Byte), s.SizeInv → a + bs.length ≤ s.dmemSize →
    ∃ t, runInstrs (Pseudo.loadb a bs).expand s = .next t ∧ t = { s with dmem := t.dmem } ∧
      t.memRead a bs.length = bs ∧ ∀ x, (x < a ∨ a + bs.length ≤ x) → t.readByte x = s.readByte x

/-! ### Primitives -/

/-- R77, R78: the rotations: the two shifts, which move bit i to bit i + r modulo the width. -/
def Obligations.RotationBits : Prop :=
  (∀ (x : U32) (r i : Nat), 1 ≤ r → r ≤ 31 → i < 32 →
    rotl32 x r = (x <<< r ||| x >>> (32 - r)) ∧ (rotl32 x r).getLsbD i = x.getLsbD ((i + 32 - r) % 32)) ∧
  (∀ (x : U64) (r i : Nat), 1 ≤ r → r ≤ 63 → i < 64 →
    rotl64 x r = (x <<< r ||| x >>> (64 - r)) ∧ (rotl64 x r).getLsbD i = x.getLsbD ((i + 64 - r) % 64))

/-- 41_primitives.md R80 (its remark from general knowledge): SIPROUND loses nothing: it is a bijection. -/
def Obligations.SipRoundIsABijection : Prop :=
  Function.Bijective sipRound

/-- 41_primitives.md R82, R83: byte order: byte j of a sequence is bits 8j+7:8j of its little-endian word, with zeros above, LE32
agrees with that, and the big-endian bytes of a word are its bytes from the top. -/
def Obligations.ByteOrderOfAssembledWords : Prop :=
  (∀ (s : List Byte) (j : Nat), s.length ≤ 8 →
    (leBytes s).extractLsb' (8 * j) 8 = if h : j < s.length then s[j] else 0) ∧
  (∀ b0 b1 b2 b3 : Byte, (le32 b0 b1 b2 b3).setWidth 64 = leBytes [b0, b1, b2, b3]) ∧
  (∀ w : U32, (be32Bytes w).toList.reverse = wordBytes32 w)

/-! ### MurmurHash3 -/

/-- 44_murmur3.md R103 to R106: MUR32 puts in RESULT the zero-extended digest that the indexed block loop, the tail and the
avalanche give; nothing else changes. -/
def Obligations.Mur32ComputesTheReferenceDigest : Prop :=
  ∀ s : State, s.errs.err = false → s.regs.src.toNat + s.regs.len.toNat ≤ s.dmemSize →
    exec .mur32 s = .next { s with
      result := (murmurReference s.regs.seed (s.memRead s.regs.src.toNat s.regs.len.toNat)).setWidth 64 }

/-- R107: the corner cases of MUR32. -/
def Obligations.Mur32CornerCases : Prop :=
  (∀ s : State, s.errs.err = false → s.regs.src.toNat ≤ s.dmemSize → s.regs.len = 0 →
    exec .mur32 s = .next { s with result := (fmix32 s.regs.seed).setWidth 64 }) ∧
  fmix32 0 = 0 ∧ fmix32 1 = 0x514e28b7 ∧
  (∀ h : U32, murTail h [] = h ∧ h ^^^ murMix 0 = h) ∧
  (∀ s : State, s.errs.err = false → s.regs.src.toNat + 4 ≤ s.dmemSize → s.regs.len = 4 →
    exec .mur32 s = .next { s with
      result := (fmix32 (murBlock s.regs.seed
        (le32 (s.readByte s.regs.src.toNat) (s.readByte (s.regs.src.toNat + 1)) (s.readByte (s.regs.src.toNat + 2))
          (s.readByte (s.regs.src.toNat + 3))) ^^^ 4)).setWidth 64 }) ∧
  (∀ s : State, s.errs.err = false → s.regs.src.toNat + 1 ≤ s.dmemSize → s.regs.len = 1 → s.regs.seed = 0 →
    s.readByte s.regs.src.toNat = 0 → exec .mur32 s = .next { s with result := 0x514e28b7 })

/-- R108: the digest of MUR32 depends only on the seed and the data bytes: two states that agree on SEED, LEN and the bytes of
the operand get the same RESULT, whatever else they hold. -/
def Obligations.Mur32DependsOnlyOnSeedAndData : Prop :=
  ∀ s s' : State, s.errs.err = false → s'.errs.err = false →
    s.regs.src.toNat + s.regs.len.toNat ≤ s.dmemSize → s'.regs.src.toNat + s'.regs.len.toNat ≤ s'.dmemSize →
    s.regs.seed = s'.regs.seed → s.regs.len = s'.regs.len →
    (∀ i < s.regs.len.toNat, s.readByte (s.regs.src.toNat + i) = s'.readByte (s'.regs.src.toNat + i)) →
    ∃ t t', exec .mur32 s = .next t ∧ exec .mur32 s' = .next t' ∧ t.result = t'.result

/-! ### SipHash streaming -/

/-- 42_siphash_stream.md R89: SIPINIT starts a fresh context from K0 and K1, whatever the old one; nothing else changes. -/
def Obligations.SipinitStartsAFreshContext : Prop :=
  ∀ s : State, s.errs.err = false →
    exec .sipinit s = .next { s with ctx := {
      v := ⟨0x736f6d6570736575 ^^^ s.regs.k0, 0x646f72616e646f6d ^^^ s.regs.k1, 0x6c7967656e657261 ^^^ s.regs.k0,
        0x7465646279746573 ^^^ s.regs.k1⟩
      count := 0, tail := 0, valid := true } }

/-- 42_siphash_stream.md R90: SIPWORD at a group boundary compresses WORD and raises count by 8, modulo 2^64; nothing else
changes. -/
def Obligations.SipwordCompressesOneWord : Prop :=
  ∀ s : State, s.errs.err = false → s.ctx.valid = true → s.ctx.count.toNat % 8 = 0 →
    exec .sipword s = .next { s with
      ctx := { s.ctx with v := sipCompress s.ctx.v s.regs.word, count := s.ctx.count + 8 } }

/-- 42_siphash_stream.md R91, R92: SIPBYTES puts its bytes after the pending ones, compresses each full group of the two together
in order, leaves the rest in the tail, and raises count by LEN; nothing else changes. (The premise is the invariant of R28.) -/
def Obligations.SipbytesAbsorbsWholeGroups : Prop :=
  ∀ s : State, s.CtxInv → s.errs.err = false → s.ctx.valid = true →
    s.regs.src.toNat + s.regs.len.toNat ≤ s.dmemSize →
    let pending := (wordBytes s.ctx.tail).take (s.ctx.count.toNat % 8)
    let m := pending ++ s.memRead s.regs.src.toNat s.regs.len.toNat
    exec .sipbytes s = .next { s with ctx := {
      v := compressGroups s.ctx.v m
      count := s.ctx.count + s.regs.len.setWidth 64
      tail := leBytes (lastGroup m)
      valid := true } }

/-- 42_siphash_stream.md R93, R95: SIPFINAL puts the digest in RESULT, the length byte in bits 63:56 of the final word; the
context and everything else is unchanged. -/
def Obligations.SipfinalGivesTheDigest : Prop :=
  ∀ s : State, s.errs.err = false → s.ctx.valid = true →
    exec .sipfinal s = .next { s with result := sipFinish s.ctx.v (s.ctx.tail ||| (s.ctx.count <<< 56)) }

/-- 42_siphash_stream.md R93: a second SIPFINAL changes nothing. -/
def Obligations.SipfinalTwiceGivesTheSameResult : Prop :=
  ∀ s t : State, exec .sipfinal s = .next t → exec .sipfinal t = .next t ∧ t.ctx = s.ctx

/-- R94: bytes and words are equivalent: at a group boundary, SIPBYTES over the bytes of k words leaves the context that k
SIPWORDs leave, and any split of the bytes over several SIPBYTES leaves it too; so the digests agree. (The premise is the
invariant of R28.) -/
def Obligations.BytesAndWordsAbsorbAlike : Prop :=
  ∀ (s : State) (ws : List U64) (ns : List Nat), s.SizeInv → s.CtxInv → s.errs.err = false → s.ctx.valid = true →
    s.ctx.count.toNat % 8 = 0 → s.regs.src.toNat + s.regs.len.toNat ≤ s.dmemSize →
    s.memRead s.regs.src.toNat s.regs.len.toNat = ws.flatMap wordBytes → ns.sum = s.regs.len.toNat →
    ∃ t u v t' u', exec .sipbytes s = .next t ∧ runInstrs (sipwordRun ws) s = .next u ∧
      runInstrs (sipbytesRun s.regs.src.toNat ns) s = .next v ∧ u.ctx = t.ctx ∧ v.ctx = t.ctx ∧
      exec .sipfinal t = .next t' ∧ exec .sipfinal u = .next u' ∧ u'.result = t'.result

/-- R97: the closed form of a stream. After SIPINIT and any instructions without another SIPINIT that end with ERR = 0, SIPFINAL
gives `SipHash24(k0, k1, M)`, M the bytes absorbed on the way. -/
def Obligations.StreamDigestIsSipHash24 : Prop :=
  ∀ (s t u : State) (p : List Instr), s.errs.err = false → exec .sipinit s = .next t →
    (∀ i ∈ p, issuedCommand i ≠ some .sipinit) → runInstrs p t = .next u → u.errs.err = false →
    exec .sipfinal u = .next { u with result := sipHash24 s.regs.k0 s.regs.k1 (absorbedAlong p t) }

/-! ### SipHash fixed-256 -/

/-- 43_siphash_fixed256.md R99, R102: SIP256X puts in RESULT the SipHash-2-4 digest of the 32 bytes of the four limbs and the 4
bytes of EXTRA; nothing else changes. -/
def Obligations.Sip256xIsSipHash24OfTheLimbsAndExtra : Prop :=
  ∀ s : State, s.errs.err = false →
    exec .sip256x s = .next { s with
      result := sipHash24 s.regs.k0 s.regs.k1
        (wordBytes s.regs.val0 ++ wordBytes s.regs.val1 ++ wordBytes s.regs.val2 ++ wordBytes s.regs.val3 ++
          wordBytes32 s.regs.extra) }

/-- R100: SIP256 and SIP256X neither read nor write the context. -/
def Obligations.FixedVariantsIgnoreTheContext : Prop :=
  ∀ (s : State) (c : SipCtx) (i : Instr), i ∈ [Instr.sip256, Instr.sip256x] →
    ∃ t t', exec i s = .next t ∧ exec i { s with ctx := c } = .next t' ∧
      t.ctx = s.ctx ∧ t'.ctx = c ∧ t'.result = t.result ∧ t'.errs = t.errs

/-- R101: SIP256 gives the RESULT of SIPINIT, four SIPWORDs of VAL0 to VAL3 and SIPFINAL. The streaming sequence changes the
context, and leaves count 32 and tail 0; SIP256 changes RESULT only. -/
def Obligations.Sip256EqualsTheStreamingPath : Prop :=
  ∀ s : State, s.errs.err = false →
    ∃ t u, exec .sip256 s = .next t ∧ t = { s with result := t.result } ∧
      runInstrs ([.sipinit] ++ sipwordRun [s.regs.val0, s.regs.val1, s.regs.val2, s.regs.val3] ++ [.sipfinal]) s = .next u ∧
      t.result = u.result ∧ u.ctx.count = 32 ∧ u.ctx.tail = 0 ∧
      t.result = sipHash24 s.regs.k0 s.regs.k1
        (wordBytes s.regs.val0 ++ wordBytes s.regs.val1 ++ wordBytes s.regs.val2 ++ wordBytes s.regs.val3)

/-- R102: SIP256X gives the RESULT of the sequence of R101 with a SIPBYTES over the four bytes of EXTRA before SIPFINAL; that
SIPBYTES leaves tail EXTRA and count 36. -/
def Obligations.Sip256xEqualsTheStreamingPath : Prop :=
  ∀ (s : State) (a : U32), s.errs.err = false → a.toNat + 4 ≤ s.dmemSize →
    s.memRead a.toNat 4 = [s.regs.extra.extractLsb' 0 8, s.regs.extra.extractLsb' 8 8, s.regs.extra.extractLsb' 16 8,
      s.regs.extra.extractLsb' 24 8] →
    ∃ t u, exec .sip256x s = .next t ∧
      runInstrs ([.sipinit] ++ sipwordRun [s.regs.val0, s.regs.val1, s.regs.val2, s.regs.val3] ++
        [hwrReg .src (a.setWidth 64), hwrReg .len 4, .sipbytes, .sipfinal]) s = .next u ∧
      t.result = u.result ∧ u.ctx.tail = s.regs.extra.setWidth 64 ∧ u.ctx.count = 36

/-! ### BIP32 -/

/-- R110, R111, R112: BIP32H makes one call whose key is the 32 bytes at AUX and whose message is header, the 32 bytes at SRC and
the index big-endian; the 64 bytes of the answer are written at DST in order, also where the output overlaps the inputs;
nothing else changes. (The list of calls is the model's own, log 4.) -/
def Obligations.Bip32hFramesCallsAndStores : Prop :=
  ∀ (s : State) (c : HmacCall), s.errs.err = false →
    s.regs.aux.toNat + 32 ≤ s.dmemSize → s.regs.src.toNat + 32 ≤ s.dmemSize → s.regs.dst.toNat + 64 ≤ s.dmemSize →
    (∀ (i : Nat) (h : i < 32), c.key[i] = s.readByte (s.regs.aux.toNat + i)) →
    c.msg[0] = s.regs.header →
    (∀ (i : Nat) (h : i < 32), c.msg[i + 1] = s.readByte (s.regs.src.toNat + i)) →
    c.msg[33] = s.regs.index.extractLsb' 24 8 → c.msg[34] = s.regs.index.extractLsb' 16 8 →
    c.msg[35] = s.regs.index.extractLsb' 8 8 → c.msg[36] = s.regs.index.extractLsb' 0 8 →
    ∃ t, exec .bip32h s = .next t ∧
      t = { s with dmem := t.dmem, hmacCalls := s.hmacCalls ++ [c] } ∧
      (∀ (i : Nat) (h : i < 64), t.readByte (s.regs.dst.toNat + i) = (Config.hmac512 c.key c.msg)[i]) ∧
      (∀ a, (a < s.regs.dst.toNat ∨ s.regs.dst.toNat + 64 ≤ a) → t.readByte a = s.readByte a)

/-- 45_bip32.md R113: BIP32H is deterministic: equal operands and equal input bytes give equal output, wherever the operands lie
and whatever else the states hold. -/
def Obligations.Bip32hIsDeterministic : Prop :=
  ∀ s s' : State, s.errs.err = false → s'.errs.err = false → s.bip32InDmem = true → s'.bip32InDmem = true →
    s.regs.header = s'.regs.header → s.regs.index = s'.regs.index →
    (∀ i < 32, s.readByte (s.regs.aux.toNat + i) = s'.readByte (s'.regs.aux.toNat + i)) →
    (∀ i < 32, s.readByte (s.regs.src.toNat + i) = s'.readByte (s'.regs.src.toNat + i)) →
    ∃ t t', exec .bip32h s = .next t ∧ exec .bip32h s' = .next t' ∧
      ∀ i < 64, t.readByte (s.regs.dst.toNat + i) = t'.readByte (s'.regs.dst.toNat + i)
end

