-- ==== Sys2Proof/Laws/State.lean ====
section
/-! SUPPORT. What each named update of State leaves in each field: one lemma per field per update, true by
unfolding. They are written `(rfl)`, so that simp rewrites with them: a proof term that leaves the equation to the kernel makes
it compare whole states, and unfold a digest on open words. -/

namespace Sys2Proof.Machine

variable (s : State)

/-! ### withErrs -/

@[simp] theorem State.withErrs_errs (e : ErrorRegs) : (s.withErrs e).errs = e := (rfl)
@[simp] theorem State.withErrs_result (e : ErrorRegs) : (s.withErrs e).result = s.result := (rfl)
@[simp] theorem State.withErrs_regs (e : ErrorRegs) : (s.withErrs e).regs = s.regs := (rfl)
@[simp] theorem State.withErrs_ctx (e : ErrorRegs) : (s.withErrs e).ctx = s.ctx := (rfl)
@[simp] theorem State.withErrs_dmem (e : ErrorRegs) : (s.withErrs e).dmem = s.dmem := (rfl)
@[simp] theorem State.withErrs_dmemSize (e : ErrorRegs) : (s.withErrs e).dmemSize = s.dmemSize := (rfl)
@[simp] theorem State.withErrs_port (e : ErrorRegs) : (s.withErrs e).port = s.port := (rfl)
@[simp] theorem State.withErrs_responses (e : ErrorRegs) : (s.withErrs e).responses = s.responses := (rfl)
@[simp] theorem State.withErrs_hmacCalls (e : ErrorRegs) : (s.withErrs e).hmacCalls = s.hmacCalls := (rfl)
@[simp] theorem State.withErrs_draws (e : ErrorRegs) : (s.withErrs e).draws = s.draws := (rfl)
@[simp] theorem State.withErrs_readByte (e : ErrorRegs) (x : Nat) : (s.withErrs e).readByte x = s.readByte x := (rfl)
@[simp] theorem State.withErrs_memRead (e : ErrorRegs) (x n : Nat) : (s.withErrs e).memRead x n = s.memRead x n := (rfl)

/-! ### withResult -/

@[simp] theorem State.withResult_errs (v : U64) : (s.withResult v).errs = s.errs := (rfl)
@[simp] theorem State.withResult_result (v : U64) : (s.withResult v).result = v := (rfl)
@[simp] theorem State.withResult_regs (v : U64) : (s.withResult v).regs = s.regs := (rfl)
@[simp] theorem State.withResult_ctx (v : U64) : (s.withResult v).ctx = s.ctx := (rfl)
@[simp] theorem State.withResult_dmem (v : U64) : (s.withResult v).dmem = s.dmem := (rfl)
@[simp] theorem State.withResult_dmemSize (v : U64) : (s.withResult v).dmemSize = s.dmemSize := (rfl)
@[simp] theorem State.withResult_port (v : U64) : (s.withResult v).port = s.port := (rfl)
@[simp] theorem State.withResult_responses (v : U64) : (s.withResult v).responses = s.responses := (rfl)
@[simp] theorem State.withResult_hmacCalls (v : U64) : (s.withResult v).hmacCalls = s.hmacCalls := (rfl)
@[simp] theorem State.withResult_draws (v : U64) : (s.withResult v).draws = s.draws := (rfl)
@[simp] theorem State.withResult_readByte (v : U64) (x : Nat) : (s.withResult v).readByte x = s.readByte x := (rfl)
@[simp] theorem State.withResult_memRead (v : U64) (x n : Nat) : (s.withResult v).memRead x n = s.memRead x n := (rfl)

/-! ### withRegs -/

@[simp] theorem State.withRegs_errs (r : OperandRegs) : (s.withRegs r).errs = s.errs := (rfl)
@[simp] theorem State.withRegs_result (r : OperandRegs) : (s.withRegs r).result = s.result := (rfl)
@[simp] theorem State.withRegs_regs (r : OperandRegs) : (s.withRegs r).regs = r := (rfl)
@[simp] theorem State.withRegs_ctx (r : OperandRegs) : (s.withRegs r).ctx = s.ctx := (rfl)
@[simp] theorem State.withRegs_dmem (r : OperandRegs) : (s.withRegs r).dmem = s.dmem := (rfl)
@[simp] theorem State.withRegs_dmemSize (r : OperandRegs) : (s.withRegs r).dmemSize = s.dmemSize := (rfl)
@[simp] theorem State.withRegs_port (r : OperandRegs) : (s.withRegs r).port = s.port := (rfl)
@[simp] theorem State.withRegs_responses (r : OperandRegs) : (s.withRegs r).responses = s.responses := (rfl)
@[simp] theorem State.withRegs_hmacCalls (r : OperandRegs) : (s.withRegs r).hmacCalls = s.hmacCalls := (rfl)
@[simp] theorem State.withRegs_draws (r : OperandRegs) : (s.withRegs r).draws = s.draws := (rfl)
@[simp] theorem State.withRegs_readByte (r : OperandRegs) (x : Nat) : (s.withRegs r).readByte x = s.readByte x := (rfl)
@[simp] theorem State.withRegs_memRead (r : OperandRegs) (x n : Nat) : (s.withRegs r).memRead x n = s.memRead x n := (rfl)

/-! ### withCtx -/

@[simp] theorem State.withCtx_errs (c : SipCtx) : (s.withCtx c).errs = s.errs := (rfl)
@[simp] theorem State.withCtx_result (c : SipCtx) : (s.withCtx c).result = s.result := (rfl)
@[simp] theorem State.withCtx_regs (c : SipCtx) : (s.withCtx c).regs = s.regs := (rfl)
@[simp] theorem State.withCtx_ctx (c : SipCtx) : (s.withCtx c).ctx = c := (rfl)
@[simp] theorem State.withCtx_dmem (c : SipCtx) : (s.withCtx c).dmem = s.dmem := (rfl)
@[simp] theorem State.withCtx_dmemSize (c : SipCtx) : (s.withCtx c).dmemSize = s.dmemSize := (rfl)
@[simp] theorem State.withCtx_port (c : SipCtx) : (s.withCtx c).port = s.port := (rfl)
@[simp] theorem State.withCtx_responses (c : SipCtx) : (s.withCtx c).responses = s.responses := (rfl)
@[simp] theorem State.withCtx_hmacCalls (c : SipCtx) : (s.withCtx c).hmacCalls = s.hmacCalls := (rfl)
@[simp] theorem State.withCtx_draws (c : SipCtx) : (s.withCtx c).draws = s.draws := (rfl)
@[simp] theorem State.withCtx_readByte (c : SipCtx) (x : Nat) : (s.withCtx c).readByte x = s.readByte x := (rfl)
@[simp] theorem State.withCtx_memRead (c : SipCtx) (x n : Nat) : (s.withCtx c).memRead x n = s.memRead x n := (rfl)

/-! ### withPort -/

@[simp] theorem State.withPort_errs (p : List HostEvent) : (s.withPort p).errs = s.errs := (rfl)
@[simp] theorem State.withPort_result (p : List HostEvent) : (s.withPort p).result = s.result := (rfl)
@[simp] theorem State.withPort_regs (p : List HostEvent) : (s.withPort p).regs = s.regs := (rfl)
@[simp] theorem State.withPort_ctx (p : List HostEvent) : (s.withPort p).ctx = s.ctx := (rfl)
@[simp] theorem State.withPort_dmem (p : List HostEvent) : (s.withPort p).dmem = s.dmem := (rfl)
@[simp] theorem State.withPort_dmemSize (p : List HostEvent) : (s.withPort p).dmemSize = s.dmemSize := (rfl)
@[simp] theorem State.withPort_port (p : List HostEvent) : (s.withPort p).port = p := (rfl)
@[simp] theorem State.withPort_responses (p : List HostEvent) : (s.withPort p).responses = s.responses := (rfl)
@[simp] theorem State.withPort_hmacCalls (p : List HostEvent) : (s.withPort p).hmacCalls = s.hmacCalls := (rfl)
@[simp] theorem State.withPort_draws (p : List HostEvent) : (s.withPort p).draws = s.draws := (rfl)
@[simp] theorem State.withPort_readByte (p : List HostEvent) (x : Nat) : (s.withPort p).readByte x = s.readByte x := (rfl)
@[simp] theorem State.withPort_memRead (p : List HostEvent) (x n : Nat) : (s.withPort p).memRead x n = s.memRead x n := (rfl)

/-! ### respond -/

@[simp] theorem State.respond_errs (r : Response) : (s.respond r).errs = s.errs := (rfl)
@[simp] theorem State.respond_result (r : Response) : (s.respond r).result = s.result := (rfl)
@[simp] theorem State.respond_regs (r : Response) : (s.respond r).regs = s.regs := (rfl)
@[simp] theorem State.respond_ctx (r : Response) : (s.respond r).ctx = s.ctx := (rfl)
@[simp] theorem State.respond_dmem (r : Response) : (s.respond r).dmem = s.dmem := (rfl)
@[simp] theorem State.respond_dmemSize (r : Response) : (s.respond r).dmemSize = s.dmemSize := (rfl)
@[simp] theorem State.respond_port (r : Response) : (s.respond r).port = s.port := (rfl)
@[simp] theorem State.respond_responses (r : Response) : (s.respond r).responses = s.responses ++ [r] := (rfl)
@[simp] theorem State.respond_hmacCalls (r : Response) : (s.respond r).hmacCalls = s.hmacCalls := (rfl)
@[simp] theorem State.respond_draws (r : Response) : (s.respond r).draws = s.draws := (rfl)
@[simp] theorem State.respond_readByte (r : Response) (x : Nat) : (s.respond r).readByte x = s.readByte x := (rfl)
@[simp] theorem State.respond_memRead (r : Response) (x n : Nat) : (s.respond r).memRead x n = s.memRead x n := (rfl)

/-! ### recordCall -/

@[simp] theorem State.recordCall_errs (c : HmacCall) : (s.recordCall c).errs = s.errs := (rfl)
@[simp] theorem State.recordCall_result (c : HmacCall) : (s.recordCall c).result = s.result := (rfl)
@[simp] theorem State.recordCall_regs (c : HmacCall) : (s.recordCall c).regs = s.regs := (rfl)
@[simp] theorem State.recordCall_ctx (c : HmacCall) : (s.recordCall c).ctx = s.ctx := (rfl)
@[simp] theorem State.recordCall_dmem (c : HmacCall) : (s.recordCall c).dmem = s.dmem := (rfl)
@[simp] theorem State.recordCall_dmemSize (c : HmacCall) : (s.recordCall c).dmemSize = s.dmemSize := (rfl)
@[simp] theorem State.recordCall_port (c : HmacCall) : (s.recordCall c).port = s.port := (rfl)
@[simp] theorem State.recordCall_responses (c : HmacCall) : (s.recordCall c).responses = s.responses := (rfl)
@[simp] theorem State.recordCall_hmacCalls (c : HmacCall) : (s.recordCall c).hmacCalls = s.hmacCalls ++ [c] := (rfl)
@[simp] theorem State.recordCall_draws (c : HmacCall) : (s.recordCall c).draws = s.draws := (rfl)
@[simp] theorem State.recordCall_readByte (c : HmacCall) (x : Nat) : (s.recordCall c).readByte x = s.readByte x := (rfl)
@[simp] theorem State.recordCall_memRead (c : HmacCall) (x n : Nat) : (s.recordCall c).memRead x n = s.memRead x n := (rfl)

/-! ### writeByte -/

@[simp] theorem State.writeByte_errs (a : Nat) (b : Byte) : (s.writeByte a b).errs = s.errs := (rfl)
@[simp] theorem State.writeByte_result (a : Nat) (b : Byte) : (s.writeByte a b).result = s.result := (rfl)
@[simp] theorem State.writeByte_regs (a : Nat) (b : Byte) : (s.writeByte a b).regs = s.regs := (rfl)
@[simp] theorem State.writeByte_ctx (a : Nat) (b : Byte) : (s.writeByte a b).ctx = s.ctx := (rfl)
@[simp] theorem State.writeByte_dmem (a : Nat) (b : Byte) : (s.writeByte a b).dmem = s.dmem.set a b := (rfl)
@[simp] theorem State.writeByte_dmemSize (a : Nat) (b : Byte) : (s.writeByte a b).dmemSize = s.dmemSize := (rfl)
@[simp] theorem State.writeByte_port (a : Nat) (b : Byte) : (s.writeByte a b).port = s.port := (rfl)
@[simp] theorem State.writeByte_responses (a : Nat) (b : Byte) : (s.writeByte a b).responses = s.responses := (rfl)
@[simp] theorem State.writeByte_hmacCalls (a : Nat) (b : Byte) : (s.writeByte a b).hmacCalls = s.hmacCalls := (rfl)
@[simp] theorem State.writeByte_draws (a : Nat) (b : Byte) : (s.writeByte a b).draws = s.draws := (rfl)

/-! ### memWrite -/

@[simp] theorem State.memWrite_errs (a : Nat) (bs : List Byte) : (s.memWrite a bs).errs = s.errs := (rfl)
@[simp] theorem State.memWrite_result (a : Nat) (bs : List Byte) : (s.memWrite a bs).result = s.result := (rfl)
@[simp] theorem State.memWrite_regs (a : Nat) (bs : List Byte) : (s.memWrite a bs).regs = s.regs := (rfl)
@[simp] theorem State.memWrite_ctx (a : Nat) (bs : List Byte) : (s.memWrite a bs).ctx = s.ctx := (rfl)
@[simp] theorem State.memWrite_dmem (a : Nat) (bs : List Byte) : (s.memWrite a bs).dmem = s.dmem.setMany a bs := (rfl)
@[simp] theorem State.memWrite_dmemSize (a : Nat) (bs : List Byte) : (s.memWrite a bs).dmemSize = s.dmemSize := (rfl)
@[simp] theorem State.memWrite_port (a : Nat) (bs : List Byte) : (s.memWrite a bs).port = s.port := (rfl)
@[simp] theorem State.memWrite_responses (a : Nat) (bs : List Byte) : (s.memWrite a bs).responses = s.responses := (rfl)
@[simp] theorem State.memWrite_hmacCalls (a : Nat) (bs : List Byte) : (s.memWrite a bs).hmacCalls = s.hmacCalls := (rfl)
@[simp] theorem State.memWrite_draws (a : Nat) (bs : List Byte) : (s.memWrite a bs).draws = s.draws := (rfl)

/-! ### raiseError -/

@[simp] theorem State.raiseError_errs (c : Cause) (i : U64) : (s.raiseError c i).errs = s.errs.capture c i := (rfl)
@[simp] theorem State.raiseError_result (c : Cause) (i : U64) : (s.raiseError c i).result = s.result := (rfl)
@[simp] theorem State.raiseError_regs (c : Cause) (i : U64) : (s.raiseError c i).regs = s.regs := (rfl)
@[simp] theorem State.raiseError_ctx (c : Cause) (i : U64) : (s.raiseError c i).ctx = s.ctx := (rfl)
@[simp] theorem State.raiseError_dmem (c : Cause) (i : U64) : (s.raiseError c i).dmem = s.dmem := (rfl)
@[simp] theorem State.raiseError_dmemSize (c : Cause) (i : U64) : (s.raiseError c i).dmemSize = s.dmemSize := (rfl)
@[simp] theorem State.raiseError_port (c : Cause) (i : U64) : (s.raiseError c i).port = s.port := (rfl)
@[simp] theorem State.raiseError_responses (c : Cause) (i : U64) : (s.raiseError c i).responses = s.responses := (rfl)
@[simp] theorem State.raiseError_hmacCalls (c : Cause) (i : U64) : (s.raiseError c i).hmacCalls = s.hmacCalls := (rfl)
@[simp] theorem State.raiseError_draws (c : Cause) (i : U64) : (s.raiseError c i).draws = s.draws := (rfl)
@[simp] theorem State.raiseError_readByte (c : Cause) (i : U64) (x : Nat) : (s.raiseError c i).readByte x = s.readByte x := (rfl)
@[simp] theorem State.raiseError_memRead (c : Cause) (i : U64) (x n : Nat) : (s.raiseError c i).memRead x n = s.memRead x n := (rfl)

/-! ### writeStatus -/

@[simp] theorem State.writeStatus_errs (d : U64) : (s.writeStatus d).errs = s.errs.writeStatus d := (rfl)
@[simp] theorem State.writeStatus_result (d : U64) : (s.writeStatus d).result = s.result := (rfl)
@[simp] theorem State.writeStatus_regs (d : U64) : (s.writeStatus d).regs = s.regs := (rfl)
@[simp] theorem State.writeStatus_ctx (d : U64) : (s.writeStatus d).ctx = s.ctx := (rfl)
@[simp] theorem State.writeStatus_dmem (d : U64) : (s.writeStatus d).dmem = s.dmem := (rfl)
@[simp] theorem State.writeStatus_dmemSize (d : U64) : (s.writeStatus d).dmemSize = s.dmemSize := (rfl)
@[simp] theorem State.writeStatus_port (d : U64) : (s.writeStatus d).port = s.port := (rfl)
@[simp] theorem State.writeStatus_responses (d : U64) : (s.writeStatus d).responses = s.responses := (rfl)
@[simp] theorem State.writeStatus_hmacCalls (d : U64) : (s.writeStatus d).hmacCalls = s.hmacCalls := (rfl)
@[simp] theorem State.writeStatus_draws (d : U64) : (s.writeStatus d).draws = s.draws := (rfl)
@[simp] theorem State.writeStatus_readByte (d : U64) (x : Nat) : (s.writeStatus d).readByte x = s.readByte x := (rfl)
@[simp] theorem State.writeStatus_memRead (d : U64) (x n : Nat) : (s.writeStatus d).memRead x n = s.memRead x n := (rfl)

/-! ### resetCore -/

@[simp] theorem State.resetCore_errs : s.resetCore.errs = ErrorRegs.reset := (rfl)
@[simp] theorem State.resetCore_result : s.resetCore.result = 0 := (rfl)
@[simp] theorem State.resetCore_regs : s.resetCore.regs = OperandRegs.reset := (rfl)
@[simp] theorem State.resetCore_ctx : s.resetCore.ctx = SipCtx.reset := (rfl)
@[simp] theorem State.resetCore_dmem : s.resetCore.dmem = s.dmem := (rfl)
@[simp] theorem State.resetCore_dmemSize : s.resetCore.dmemSize = s.dmemSize := (rfl)
@[simp] theorem State.resetCore_port : s.resetCore.port = s.port := (rfl)
@[simp] theorem State.resetCore_responses : s.resetCore.responses = s.responses := (rfl)
@[simp] theorem State.resetCore_hmacCalls : s.resetCore.hmacCalls = s.hmacCalls := (rfl)
@[simp] theorem State.resetCore_draws : s.resetCore.draws = s.draws := (rfl)
@[simp] theorem State.resetCore_readByte (x : Nat) : s.resetCore.readByte x = s.readByte x := (rfl)
@[simp] theorem State.resetCore_memRead (x n : Nat) : s.resetCore.memRead x n = s.memRead x n := (rfl)

/-! ### drawBytes -/

@[simp] theorem State.drawBytes_errs (a n : Nat) : (s.drawBytes a n).errs = s.errs := (rfl)
@[simp] theorem State.drawBytes_result (a n : Nat) : (s.drawBytes a n).result = s.result := (rfl)
@[simp] theorem State.drawBytes_regs (a n : Nat) : (s.drawBytes a n).regs = s.regs := (rfl)
@[simp] theorem State.drawBytes_ctx (a n : Nat) : (s.drawBytes a n).ctx = s.ctx := (rfl)
@[simp] theorem State.drawBytes_dmemSize (a n : Nat) : (s.drawBytes a n).dmemSize = s.dmemSize := (rfl)
@[simp] theorem State.drawBytes_port (a n : Nat) : (s.drawBytes a n).port = s.port := (rfl)
@[simp] theorem State.drawBytes_responses (a n : Nat) : (s.drawBytes a n).responses = s.responses := (rfl)
@[simp] theorem State.drawBytes_hmacCalls (a n : Nat) : (s.drawBytes a n).hmacCalls = s.hmacCalls := (rfl)

end Sys2Proof.Machine
end

