-- ==== Sys2Proof/Laws/Memory.lean ====
section
/-! SUPPORT. The laws of the list of written bytes: a read after a write, and that every memory operation keeps the canonical
form and the bound on addresses. -/

namespace Sys2Proof.Machine

theorem Memory.get?_set (m : Memory) (a x : Nat) (b : Byte) :
    (m.set a b).get? x = if x = a then some b else m.get? x := by
  induction m with
  | nil => simp [Memory.set, Memory.get?]
  | cons c m ih =>
    obtain ⟨k, v⟩ := c
    simp only [Memory.set]
    split
    · simp [Memory.get?]
    · split
      · rename_i h
        subst h
        by_cases hx : x = a <;> simp [Memory.get?, hx]
      · rename_i h1 h2
        by_cases hk : x = k
        · subst hk
          have : x ≠ a := fun h => h2 h.symm
          simp [Memory.get?, this]
        · simp [Memory.get?, hk, ih]

/-- The addresses after a write are the old ones and the written one. -/
theorem Memory.mem_set_key {m : Memory} {a : Nat} {b : Byte} {c : Host.Cell} (h : c ∈ m.set a b) : c.1 = a ∨ c ∈ m := by
  induction m with
  | nil =>
    simp only [Memory.set, List.mem_singleton] at h
    exact Or.inl (by rw [h])
  | cons d m ih =>
    obtain ⟨k, v⟩ := d
    simp only [Memory.set] at h
    split at h
    · rcases List.mem_cons.1 h with h | h
      · exact Or.inl (by rw [h])
      · exact Or.inr h
    · split at h
      · rcases List.mem_cons.1 h with h | h
        · exact Or.inl (by rw [h])
        · exact Or.inr (List.mem_cons_of_mem _ h)
      · rcases List.mem_cons.1 h with h | h
        · exact Or.inr (by rw [h]; exact List.mem_cons_self)
        · exact (ih h).imp_right (List.mem_cons_of_mem _)

theorem Memory.set_wf {m : Memory} (h : m.wf) (a : Nat) (b : Byte) : (m.set a b).wf := by
  induction m with
  | nil => simp [Memory.set, Memory.wf]
  | cons d m ih =>
    obtain ⟨k, v⟩ := d
    obtain ⟨hk, hm⟩ := List.pairwise_cons.1 h
    simp only [Memory.set]
    split
    · rename_i hlt
      refine List.pairwise_cons.2 ⟨fun c hc => ?_, h⟩
      rcases List.mem_cons.1 hc with hc | hc
      · rw [hc]; exact hlt
      · exact lt_trans hlt (hk c hc)
    · split
      · rename_i _ heq
        exact List.pairwise_cons.2 ⟨fun c hc => heq ▸ hk c hc, hm⟩
      · rename_i hlt hne
        refine List.pairwise_cons.2 ⟨fun c hc => ?_, ih hm⟩
        rcases Memory.mem_set_key hc with hc | hc
        · simp only [hc]; omega
        · exact hk c hc

theorem Memory.setMany_wf {m : Memory} (h : m.wf) (a : Nat) (bs : List Byte) : (m.setMany a bs).wf := by
  induction bs generalizing m a with
  | nil => exact h
  | cons b bs ih => exact ih (Memory.set_wf h a b) (a + 1)

/-- The addresses after a sequence is written are the old ones and those of the sequence. -/
theorem Memory.mem_setMany_key {m : Memory} {a : Nat} {bs : List Byte} {c : Host.Cell} (h : c ∈ m.setMany a bs) :
    (a ≤ c.1 ∧ c.1 < a + bs.length) ∨ c ∈ m := by
  induction bs generalizing m a with
  | nil => exact Or.inr h
  | cons b bs ih =>
    rcases ih h with h | h
    · exact Or.inl (by simp only [List.length_cons]; omega)
    · rcases Memory.mem_set_key h with h | h
      · exact Or.inl (by simp only [List.length_cons]; omega)
      · exact Or.inr h

/-- A byte inside a written sequence reads as written; every other one as before (R44). -/
theorem Memory.get?_setMany (m : Memory) (a x : Nat) (bs : List Byte) :
    (m.setMany a bs).get? x = if a ≤ x ∧ x < a + bs.length then bs[x - a]? else m.get? x := by
  induction bs generalizing m a with
  | nil =>
    simp [Memory.setMany]
  | cons b bs ih =>
    rw [Memory.setMany, ih, Memory.get?_set]
    by_cases hin : a + 1 ≤ x ∧ x < a + 1 + bs.length
    · have h2 : a ≤ x ∧ x < a + (b :: bs).length := by simp only [List.length_cons]; omega
      have h3 : x - a = (x - (a + 1)) + 1 := by omega
      simp only [hin, h2, and_self, if_true, h3, List.getElem?_cons_succ]
    · by_cases hx : x = a
      · subst hx
        simp
      · have h2 : ¬ (a ≤ x ∧ x < a + (b :: bs).length) := by simp only [List.length_cons]; omega
        simp only [hin, h2, hx, if_false]

/-! ### DMEM -/

theorem State.readByte_writeByte (s : State) (a x : Nat) (b : Byte) :
    (s.writeByte a b).readByte x = if x = a then b else s.readByte x := by
  simp only [State.readByte, State.writeByte_dmem, Memory.get?_set]
  split <;> simp

theorem State.readByte_memWrite (s : State) (a x : Nat) (bs : List Byte) :
    (s.memWrite a bs).readByte x = if a ≤ x ∧ x < a + bs.length then bs.getD (x - a) 0 else s.readByte x := by
  simp only [State.readByte, State.memWrite_dmem, Memory.get?_setMany]
  split
  · rename_i h
    have hlt : x - a < bs.length := by omega
    simp [List.getElem?_eq_getElem hlt]
  · rfl

@[simp] theorem State.memRead_length (s : State) (a n : Nat) : (s.memRead a n).length = n := by
  simp [State.memRead]

theorem State.memRead_getElem (s : State) (a n i : Nat) (h : i < (s.memRead a n).length) :
    (s.memRead a n)[i] = s.readByte (a + i) := by
  simp [State.memRead]

theorem State.memReadVec_getElem (s : State) (a n i : Nat) (h : i < n) :
    (s.memReadVec a n)[i] = s.readByte (a + i) := by
  simp [State.memReadVec, State.memRead]

theorem State.drawBytes_draws (s : State) (a n : Nat) : (s.drawBytes a n).draws = s.draws + n := rfl

/-- A free-value write changes only the bytes from `a` upward, at most `n` (R134). -/
theorem State.readByte_drawBytes (s : State) (a n x : Nat) (h : x < a ∨ a + n ≤ x) :
    (s.drawBytes a n).readByte x = s.readByte x := by
  have hr : (s.drawBytes a n).readByte x = (s.memWrite a ((List.range (min n (s.dmemSize - a))).map
      fun i => Config.resetDraw (s.draws + i))).readByte x := rfl
  rw [hr, State.readByte_memWrite, if_neg]
  simp only [List.length_map, List.length_range]
  omega

end Sys2Proof.Machine
end

