-- ==== Sys2Proof/Laws/Ops.lean ====
section
/-! SUPPORT. One lemma for each shared operation, saying everything it can do. -/

namespace Sys2Proof.Machine

/-! ### Errors -/

/-- A capture keeps an error that is captured already (R123). -/
theorem ErrorRegs.capture_of_err {e : ErrorRegs} (h : e.err = true) (c : Cause) (i : U64) : e.capture c i = e := by
  simp [ErrorRegs.capture, h]

theorem ErrorRegs.capture_of_clear {e : ErrorRegs} (h : e.err = false) (c : Cause) (i : U64) :
    e.capture c i = { err := true, ecause := c.code, einfo := i } := by
  simp [ErrorRegs.capture, h]

theorem Cause.code_range (c : Cause) : 1 ≤ c.code.toNat ∧ c.code.toNat ≤ 6 := by
  cases c <;> decide

theorem State.raiseError_of_err {s : State} (h : s.errs.err = true) (c : Cause) (i : U64) : s.raiseError c i = s := by
  rw [State.raiseError, ErrorRegs.capture_of_err h]
  rfl

/-! ### Commands -/

/-- Everything running a command can do: discard it, complete it, or capture its error. -/
theorem runCommand_cases {c : U32} {f : State → Except Cause State} {s t : State} (h : runCommand c f s = .next t) :
    (s.errs.err = true ∧ t = s) ∨ (s.errs.err = false ∧ f s = .ok t) ∨
      ∃ e, s.errs.err = false ∧ f s = .error e ∧ t = s.raiseError e (commandInfo c) := by
  unfold runCommand at h
  split at h
  · rename_i he
    exact Or.inl ⟨he, by cases h; rfl⟩
  · rename_i he
    have he : s.errs.err = false := by simpa using he
    split at h
    · rename_i u hf
      cases h
      exact Or.inr (Or.inl ⟨he, hf⟩)
    · rename_i e hf
      cases h
      exact Or.inr (Or.inr ⟨e, he, hf, rfl⟩)

theorem runCommand_of_err {s : State} (h : s.errs.err = true) (c : U32) (f : State → Except Cause State) :
    runCommand c f s = .next s := by
  simp [runCommand, h]

theorem runCommand_of_ok {s t : State} {f : State → Except Cause State} (h : s.errs.err = false) (hf : f s = .ok t) (c : U32) :
    runCommand c f s = .next t := by
  simp [runCommand, h, hf]

theorem runCommand_of_error {s : State} {e : Cause} {f : State → Except Cause State} (h : s.errs.err = false)
    (hf : f s = .error e) (c : U32) : runCommand c f s = .next (s.raiseError e (commandInfo c)) := by
  simp [runCommand, h, hf]

/-! ### The effects -/

theorem mur32Effect_cases {s t : State} (h : mur32Effect s = .ok t) :
    s.dataInDmem = true ∧ t = s.withResult ((murmur3 s.regs.seed s.dataBytes).setWidth 64) := by
  unfold mur32Effect at h
  split at h <;> cases h
  rename_i hr
  exact ⟨hr, rfl⟩

theorem sipinitEffect_cases {s t : State} (h : sipinitEffect s = .ok t) :
    t = s.withCtx (SipCtx.init s.regs.k0 s.regs.k1) := by
  rw [sipinitEffect, Except.ok.injEq] at h
  exact h.symm

theorem sip256Effect_cases {s t : State} (h : sip256Effect s = .ok t) : t = s.withResult (sip256Digest s.regs) := by
  rw [sip256Effect, Except.ok.injEq] at h
  exact h.symm

theorem sip256xEffect_cases {s t : State} (h : sip256xEffect s = .ok t) : t = s.withResult (sip256xDigest s.regs) := by
  rw [sip256xEffect, Except.ok.injEq] at h
  exact h.symm

theorem sipwordEffect_cases {s t : State} (h : sipwordEffect s = .ok t) :
    s.ctx.valid = true ∧ s.ctx.pending = 0 ∧ t = s.withCtx (s.ctx.absorbWord s.regs.word) := by
  unfold sipwordEffect at h
  split at h
  · cases h
  · split at h <;> cases h
    rename_i hv hp
    exact ⟨by simpa using hv, by simpa using hp, rfl⟩

theorem sipbytesEffect_cases {s t : State} (h : sipbytesEffect s = .ok t) :
    s.ctx.valid = true ∧ s.dataInDmem = true ∧ t = s.withCtx (s.ctx.absorbBytes s.dataBytes) := by
  unfold sipbytesEffect at h
  split at h
  · cases h
  · split at h <;> cases h
    rename_i hv hr
    exact ⟨by simpa using hv, hr, rfl⟩

theorem sipfinalEffect_cases {s t : State} (h : sipfinalEffect s = .ok t) :
    s.ctx.valid = true ∧ t = s.withResult s.ctx.digest := by
  unfold sipfinalEffect at h
  split at h <;> cases h
  rename_i hv
  exact ⟨by simpa using hv, rfl⟩

theorem bip32hEffect_cases {s t : State} (h : bip32hEffect s = .ok t) :
    s.bip32InDmem = true ∧ t = (s.memWrite s.regs.dst.toNat s.bip32Call.answer.toList).recordCall s.bip32Call := by
  unfold bip32hEffect at h
  split at h <;> cases h
  rename_i hr
  exact ⟨hr, rfl⟩

/-! ### The port -/

/-- Everything taking an event can give. -/
theorem State.takeEvent_cases (s : State) :
    (s.port = [] ∧ s.takeEvent = .settled s) ∨
    (∃ t rest i, s.port = .transact t :: rest ∧ decodeTransaction t = .ok i ∧
      s.takeEvent = .instr i (s.withPort rest)) ∨
    (∃ t rest e, s.port = .transact t :: rest ∧ decodeTransaction t = .error e ∧ s.takeEvent = .malformed e) ∨
    (∃ rest, s.port = .reset :: rest ∧ s.takeEvent = .settled (s.withPort rest).resetCore) ∨
    (∃ c held rest, s.port = .resetDuring c held :: rest ∧
      s.takeEvent = .settled ((s.withPort rest).abandonCommand c).resetCore) := by
  unfold State.takeEvent
  match hp : s.port with
  | [] => exact Or.inl ⟨rfl, rfl⟩
  | .transact t :: rest =>
    match hd : decodeTransaction t with
    | .ok i => exact Or.inr (Or.inl ⟨t, rest, i, rfl, hd, by simp only [hd]⟩)
    | .error e => exact Or.inr (Or.inr (Or.inl ⟨t, rest, e, rfl, hd, by simp only [hd]⟩))
  | .reset :: rest => exact Or.inr (Or.inr (Or.inr (Or.inl ⟨rest, rfl, rfl⟩)))
  | .resetDuring c held :: rest => exact Or.inr (Or.inr (Or.inr (Or.inr ⟨c, held, rest, rfl, rfl⟩)))

/-- Abandoning a command leaves the state, or makes the output bytes of a BIP32H free values (R134). -/
theorem State.abandonCommand_cases (s : State) (c : U32) :
    s.abandonCommand c = s ∨
      (s.errs.err = false ∧ c = commandWord .bip32h ∧ s.abandonCommand c = s.drawBytes s.regs.dst.toNat 64) := by
  unfold State.abandonCommand
  split
  · rename_i h
    exact Or.inr ⟨h.1, h.2, rfl⟩
  · exact Or.inl rfl

/-- An error raised while ERR = 0 writes ERR, ECAUSE and EINFO. -/
theorem State.raiseError_of_clear {s : State} (h : s.errs.err = false) (c : Cause) (i : U64) :
    s.raiseError c i = { s with errs := ⟨true, c.code, i⟩ } := by
  simp [State.raiseError, State.withErrs, ErrorRegs.capture, h]

/-- The bytes of a BIP32 message (45_bip32.md R110). -/
theorem bip32Msg_getElem (h : Byte) (k : Vector Byte 32) (w : U32) (i : Nat) (hi : i < 37) :
    (bip32Msg h k w)[i] =
      if i = 0 then h
      else if hk : i - 1 < 32 then k[i - 1]
      else (be32Bytes w)[i - 33] := by
  unfold bip32Msg
  rw [Vector.getElem_append]
  split
  · rw [Vector.getElem_append]
    split
    · have : i = 0 := by omega
      subst this
      simp
    · have h1 : ¬ i = 0 := by omega
      have h2 : i - 1 < 32 := by omega
      simp [h1, h2]
  · have h1 : ¬ i = 0 := by omega
    have h2 : ¬ i - 1 < 32 := by omega
    simp [h1, h2]

end Sys2Proof.Machine
end

