-- ==== Sys2Proof/Laws/Exec.lean ====
section
/-! SUPPORT. What an instruction can do, said once: every claim about `exec` follows from these cases. -/

namespace Sys2Proof.Machine

/-- The effect of a command, by its name. -/
def effectOf : Command → State → Except Cause State
  | .mur32 => mur32Effect
  | .sipinit => sipinitEffect
  | .sipword => sipwordEffect
  | .sipbytes => sipbytesEffect
  | .sipfinal => sipfinalEffect
  | .sip256 => sip256Effect
  | .sip256x => sip256xEffect
  | .bip32h => bip32hEffect

/-- What no command writes when it completes (10_state.md R32). -/
theorem effectOf_frame {c : Command} {s t : State} (h : effectOf c s = .ok t) :
    t.errs = s.errs ∧ t.regs = s.regs ∧ t.dmemSize = s.dmemSize ∧ t.port = s.port ∧ t.responses = s.responses ∧
      t.draws = s.draws := by
  cases c with
  | mur32 => obtain ⟨_, rfl⟩ := mur32Effect_cases h; simp
  | sipinit => obtain rfl := sipinitEffect_cases h; simp
  | sipword => obtain ⟨_, _, rfl⟩ := sipwordEffect_cases h; simp
  | sipbytes => obtain ⟨_, _, rfl⟩ := sipbytesEffect_cases h; simp
  | sipfinal => obtain ⟨_, rfl⟩ := sipfinalEffect_cases h; simp
  | sip256 => obtain rfl := sip256Effect_cases h; simp
  | sip256x => obtain rfl := sip256xEffect_cases h; simp
  | bip32h => obtain ⟨_, rfl⟩ := bip32hEffect_cases h; simp

/-- Only BIP32H writes DMEM or calls the HMAC unit (20_memory.md R39, R54). -/
theorem effectOf_dmem {c : Command} {s t : State} (h : effectOf c s = .ok t) (hc : c ≠ .bip32h) :
    t.dmem = s.dmem ∧ t.hmacCalls = s.hmacCalls := by
  cases c with
  | mur32 => obtain ⟨_, rfl⟩ := mur32Effect_cases h; simp
  | sipinit => obtain rfl := sipinitEffect_cases h; simp
  | sipword => obtain ⟨_, _, rfl⟩ := sipwordEffect_cases h; simp
  | sipbytes => obtain ⟨_, _, rfl⟩ := sipbytesEffect_cases h; simp
  | sipfinal => obtain ⟨_, rfl⟩ := sipfinalEffect_cases h; simp
  | sip256 => obtain rfl := sip256Effect_cases h; simp
  | sip256x => obtain rfl := sip256xEffect_cases h; simp
  | bip32h => exact absurd rfl hc

/-- Only the streaming commands but SIPFINAL write the context (10_state.md R32). -/
theorem effectOf_ctx {c : Command} {s t : State} (h : effectOf c s = .ok t) :
    (c = .sipinit ∧ t.ctx = SipCtx.init s.regs.k0 s.regs.k1) ∨
    (c = .sipword ∧ s.ctx.pending = 0 ∧ t.ctx = s.ctx.absorbWord s.regs.word) ∨
    (c = .sipbytes ∧ s.dataInDmem = true ∧ t.ctx = s.ctx.absorbBytes s.dataBytes) ∨ t.ctx = s.ctx := by
  cases c with
  | mur32 => obtain ⟨_, rfl⟩ := mur32Effect_cases h; simp
  | sipinit => obtain rfl := sipinitEffect_cases h; simp
  | sipword => obtain ⟨_, hp, rfl⟩ := sipwordEffect_cases h; simp [hp]
  | sipbytes => obtain ⟨_, hr, rfl⟩ := sipbytesEffect_cases h; simp [hr]
  | sipfinal => obtain ⟨_, rfl⟩ := sipfinalEffect_cases h; simp
  | sip256 => obtain rfl := sip256Effect_cases h; simp
  | sip256x => obtain rfl := sip256xEffect_cases h; simp
  | bip32h => obtain ⟨_, rfl⟩ := bip32hEffect_cases h; simp

/-! ### An invariant reads only its fields

Cite these, not definitional unfolding: comparing whole states makes the kernel evaluate open 64-bit words. -/

theorem State.MemInv.of_eq {s t : State} (h : s.MemInv) (hd : t.dmem = s.dmem) (hn : t.dmemSize = s.dmemSize) : t.MemInv := by
  unfold State.MemInv
  rw [hd, hn]
  exact h

theorem State.CtxInv.of_eq {s t : State} (h : s.CtxInv) (hc : t.ctx = s.ctx) : t.CtxInv := by
  unfold State.CtxInv
  rw [hc]
  exact h

theorem State.ErrInv.of_eq {s t : State} (h : s.ErrInv) (he : t.errs = s.errs) : t.ErrInv := by
  unfold State.ErrInv
  rw [he]
  exact h

theorem State.readByte_of_dmem_eq {s t : State} (h : t.dmem = s.dmem) (a : Nat) : t.readByte a = s.readByte a := by
  simp only [State.readByte, h]

theorem State.memRead_of_dmem_eq {s t : State} (h : t.dmem = s.dmem) (a n : Nat) : t.memRead a n = s.memRead a n := by
  simp only [State.memRead, State.readByte, h]

/-- Every command runs its effect under its own word. -/
theorem execCommand_eq (c : Command) (s : State) : execCommand c s = runCommand (commandWord c) (effectOf c) s := by
  cases c <;> rfl

/-- A command instruction is the command. -/
theorem exec_toInstr (c : Command) (s : State) : exec c.toInstr s = execCommand c s := by
  cases c <;> rfl

theorem issuedCommand_toInstr (c : Command) : issuedCommand c.toInstr = some c := by
  cases c <;> rfl

/-- A command word that decodes is the full word of its command (R58). -/
theorem commandWord_of_decode {w : U32} {c : Command} (h : decodeCommand w = .ok c) : commandWord c = w := by
  unfold decodeCommand at h
  split at h
  · cases h
  · rename_i hr
    have hw : ∀ v : U32, v.extractLsb' 8 24 = 0 → (w.extractLsb' 0 8).toNat = v.toNat → v = w := by
      intro v hv hlow
      have h1 : w.toNat / 256 % 2 ^ 24 = 0 := by
        have := congrArg BitVec.toNat (not_not.1 hr)
        simpa [BitVec.extractLsb'_toNat, Nat.shiftRight_eq_div_pow] using this
      have h2 : w.toNat % 256 = v.toNat := by simpa [BitVec.extractLsb'_toNat] using hlow
      have h3 := w.isLt
      apply BitVec.eq_of_toNat_eq
      omega
    split at h <;> cases h
    all_goals exact hw _ (by decide) (by assumption)

/-- The word of a command decodes to it (R58). -/
theorem decodeCommand_commandWord (c : Command) : decodeCommand (commandWord c) = .ok c := by
  cases c <;> rfl

/-- Everything dispatch can do (R72). -/
theorem dispatchCommand_cases {c : U32} {s t : State} (h : dispatchCommand c s = .next t) :
    (s.errs.err = true ∧ t = s) ∨
    (s.errs.err = false ∧ ∃ op, decodeCommand c = .ok op ∧ execCommand op s = .next t) ∨
    (s.errs.err = false ∧ (∃ e, decodeCommand c = .error e) ∧ t = s.raiseError .illegalCmd (commandInfo c)) := by
  unfold dispatchCommand at h
  split at h
  · rename_i he
    exact Or.inl ⟨he, by cases h; rfl⟩
  · rename_i he
    have he : s.errs.err = false := by simpa using he
    split at h
    · rename_i op hop
      exact Or.inr (Or.inl ⟨he, op, hop, h⟩)
    · rename_i e hop
      cases h
      exact Or.inr (Or.inr ⟨he, ⟨e, hop⟩, rfl⟩)

/-- What an instruction can lead to. -/
inductive ExecCase (i : Instr) (s : State) : State → Prop where
  /-- A command, or a write to CMD, while ERR = 1 (R124). -/
  | discarded (he : s.errs.err = true) (hi : (∃ c : Command, i = c.toInstr) ∨ ∃ d, i = .hwr 0 d) : ExecCase i s s
  /-- A command that completes. -/
  | completed (c : Command) (hc : issuedCommand i = some c) (he : s.errs.err = false) (t : State)
      (ht : effectOf c s = .ok t) : ExecCase i s t
  /-- An error of a command, or an illegal command word. -/
  | commandError (w : U32) (cause : Cause) (he : s.errs.err = false)
      (hi : (∃ c : Command, i = c.toInstr ∧ w = commandWord c) ∨ ∃ d : U64, i = .hwr 0 d ∧ w = d.setWidth 32)
      (hc : ∀ c, issuedCommand i = some c → w = commandWord c ∧ effectOf c s = .error cause)
      (hn : issuedCommand i = none → cause = .illegalCmd) : ExecCase i s (s.raiseError cause (commandInfo w))
  /-- A register read. -/
  | regRead (n : BitVec 8) (r : Reg) (hi : i = .hrd n) (hr : regOfNumber n = some r) :
      ExecCase i s (s.respond (.reg (s.readReg r)))
  /-- A read of an unmapped register number. -/
  | regReadError (n : BitVec 8) (hi : i = .hrd n) (hr : regOfNumber n = none) :
      ExecCase i s ((s.raiseError .badReg (transactionInfo false (n.setWidth 32))).respond (.reg 0))
  /-- A write to STATUS. -/
  | statusWrite (d : U64) (hi : i = .hwr 1 d) : ExecCase i s (s.writeStatus d)
  /-- A write to an operand register. -/
  | regWrite (n : BitVec 8) (r : Reg) (d : U64) (q : OperandRegs) (hi : i = .hwr n d) (hr : regOfNumber n = some r)
      (hw : writeReg s.regs d r = .operand q) : ExecCase i s (s.withRegs q)
  /-- A write to a read-only or unmapped register. -/
  | regWriteError (n : BitVec 8) (d : U64) (hi : i = .hwr n d) (hn : n ≠ 0) (hn' : n ≠ 1) :
      ExecCase i s (s.raiseError .badReg (transactionInfo true (n.setWidth 32)))
  /-- A DMEM byte read. -/
  | byteRead (a : U32) (hi : i = .hrdb a) (ha : a.toNat < s.dmemSize) :
      ExecCase i s (s.respond (.byte (s.readByte a.toNat)))
  /-- A DMEM byte read out of range. -/
  | byteReadError (a : U32) (hi : i = .hrdb a) (ha : s.dmemSize ≤ a.toNat) :
      ExecCase i s ((s.raiseError .hostRange (transactionInfo false a)).respond (.byte 0))
  /-- A DMEM byte write. -/
  | byteWrite (a : U32) (b : Byte) (hi : i = .hwrb a b) (ha : a.toNat < s.dmemSize) :
      ExecCase i s (s.writeByte a.toNat b)
  /-- A DMEM byte write out of range. -/
  | byteWriteError (a : U32) (b : Byte) (hi : i = .hwrb a b) (ha : s.dmemSize ≤ a.toNat) :
      ExecCase i s (s.raiseError .hostRange (transactionInfo true a))

theorem execCommand_case {c : Command} {i : Instr} {s t : State} (hi : issuedCommand i = some c)
    (hw : (∃ c' : Command, i = c'.toInstr ∧ commandWord c = commandWord c') ∨
      ∃ d : U64, i = .hwr 0 d ∧ commandWord c = d.setWidth 32)
    (h : execCommand c s = .next t) : ExecCase i s t := by
  rw [execCommand_eq] at h
  rcases runCommand_cases h with ⟨he, rfl⟩ | ⟨he, hf⟩ | ⟨e, he, hf, rfl⟩
  · refine .discarded he ?_
    rcases hw with ⟨c', hc', _⟩ | ⟨d, hd, _⟩
    · exact Or.inl ⟨c', hc'⟩
    · exact Or.inr ⟨d, hd⟩
  · exact .completed c hi he t hf
  · refine .commandError _ e he hw (fun c' hc' => ?_) (fun hn => ?_)
    · rw [hi] at hc'
      cases hc'
      exact ⟨rfl, hf⟩
    · rw [hi] at hn
      cases hn

theorem execHrd_case {n : BitVec 8} {s t : State} (h : execHrd n s = .next t) : ExecCase (.hrd n) s t := by
  unfold execHrd at h
  split at h
  · rename_i r hr
    cases h
    exact .regRead n r rfl hr
  · rename_i hr
    cases h
    exact .regReadError n rfl hr

/-- Only number 0 is CMD, and only number 1 is STATUS (R13). -/
theorem regOfNumber_eq {n : BitVec 8} {r : Reg} (h : regOfNumber n = some r) : n = regNumberOf r := by
  unfold regOfNumber at h
  split at h <;> cases h
  all_goals
    apply BitVec.eq_of_toNat_eq
    assumption

@[simp] theorem regOfNumber_regNumberOf (r : Reg) : regOfNumber (regNumberOf r) = some r := by
  cases r <;> rfl

theorem execHwr_case {n : BitVec 8} {d : U64} {s t : State} (h : execHwr n d s = .next t) : ExecCase (.hwr n d) s t := by
  match hr : regOfNumber n with
  | none =>
    have h0 : n ≠ 0 := by rintro rfl; cases hr
    have h1 : n ≠ 1 := by rintro rfl; cases hr
    simp only [execHwr, hr, Option.map_none] at h
    cases h
    exact .regWriteError n d rfl h0 h1
  | some r =>
    have hn := regOfNumber_eq hr
    match hw : writeReg s.regs d r with
    | .command c =>
      have hc : r = .cmd := by cases r <;> first | rfl | cases hw
      subst hc
      cases hw
      have hn : n = 0 := hn
      subst hn
      simp only [execHwr, hr, Option.map_some, writeReg] at h
      rcases dispatchCommand_cases h with ⟨he, rfl⟩ | ⟨he, op, hop, ht⟩ | ⟨he, ⟨e, hop⟩, rfl⟩
      · exact .discarded he (Or.inr ⟨d, rfl⟩)
      · refine execCommand_case (c := op) ?_ (Or.inr ⟨d, rfl, commandWord_of_decode hop⟩) ht
        simp [issuedCommand, hop, Except.toOption]
      · have hi : issuedCommand (.hwr 0 d) = none := by simp [issuedCommand, hop, Except.toOption]
        exact .commandError _ _ he (Or.inr ⟨d, rfl, rfl⟩) (fun c hc => by rw [hi] at hc; cases hc) (fun _ => rfl)
    | .status =>
      have hc : r = .status := by cases r <;> first | rfl | cases hw
      subst hc
      have hn : n = 1 := hn
      subst hn
      simp only [execHwr, hr, Option.map_some, hw] at h
      cases h
      exact .statusWrite d rfl
    | .operand q =>
      simp only [execHwr, hr, Option.map_some, hw] at h
      cases h
      exact .regWrite n r d q rfl hr hw
    | .readOnly =>
      have h0 : n ≠ 0 := by rintro rfl; cases hr; cases hw
      have h1 : n ≠ 1 := by rintro rfl; cases hr; cases hw
      simp only [execHwr, hr, Option.map_some, hw] at h
      cases h
      exact .regWriteError n d rfl h0 h1

theorem execHrdb_case {a : U32} {s t : State} (h : execHrdb a s = .next t) : ExecCase (.hrdb a) s t := by
  unfold execHrdb at h
  split at h
  · rename_i ha
    cases h
    exact .byteRead a rfl ha
  · rename_i ha
    cases h
    exact .byteReadError a rfl (not_lt.1 ha)

theorem execHwrb_case {a : U32} {b : Byte} {s t : State} (h : execHwrb a b s = .next t) : ExecCase (.hwrb a b) s t := by
  unfold execHwrb at h
  split at h
  · rename_i ha
    cases h
    exact .byteWrite a b rfl ha
  · rename_i ha
    cases h
    exact .byteWriteError a b rfl (not_lt.1 ha)

/-- Everything an instruction can do. -/
theorem exec_cases {i : Instr} {s t : State} (h : exec i s = .next t) : ExecCase i s t := by
  have hcmd : ∀ c : Command, i = c.toInstr → ExecCase i s t := by
    rintro c rfl
    rw [exec_toInstr] at h
    exact execCommand_case (issuedCommand_toInstr c) (Or.inl ⟨c, rfl, rfl⟩) h
  cases i with
  | mur32 => exact hcmd .mur32 rfl
  | sipinit => exact hcmd .sipinit rfl
  | sipword => exact hcmd .sipword rfl
  | sipbytes => exact hcmd .sipbytes rfl
  | sipfinal => exact hcmd .sipfinal rfl
  | sip256 => exact hcmd .sip256 rfl
  | sip256x => exact hcmd .sip256x rfl
  | bip32h => exact hcmd .bip32h rfl
  | hrd n => exact execHrd_case h
  | hwr n d => exact execHwr_case h
  | hrdb a => exact execHrdb_case h
  | hwrb a b => exact execHwrb_case h

end Sys2Proof.Machine
end

