-- ==== Sys2Proof/Laws/PerInstr.lean ====
section
/-! SUPPORT. Per-instruction law: the encoding of every instruction is a frame the spec has (30_encoding.md R56, R58, R62). -/

namespace Sys2Proof.Laws.WellFormedEncoding

/-- The frame of `i` is well formed. -/
def Statement (i : Instr) : Prop :=
  (encode i).wellFormed = true

theorem mur32 : Statement .mur32 := by unfold Statement; decide
theorem sipinit : Statement .sipinit := by unfold Statement; decide
theorem sipword : Statement .sipword := by unfold Statement; decide
theorem sipbytes : Statement .sipbytes := by unfold Statement; decide
theorem sipfinal : Statement .sipfinal := by unfold Statement; decide
theorem sip256 : Statement .sip256 := by unfold Statement; decide
theorem sip256x : Statement .sip256x := by unfold Statement; decide
theorem bip32h : Statement .bip32h := by unfold Statement; decide

/-- An 8-bit register number fits the A field of a register kind. -/
theorem regNumber_fits (n : BitVec 8) : fitsRegNumber (n.setWidth 32) = true := by
  have := n.isLt
  simp only [fitsRegNumber, BitVec.toNat_setWidth, decide_eq_true_eq]
  omega

theorem hrd (n : BitVec 8) : Statement (.hrd n) := by
  simp [Statement, encode, Frame.wellFormed, regNumber_fits, noData]

theorem hwr (n : BitVec 8) (d : U64) : Statement (.hwr n d) := by
  have hd : dataFits 64 (some d) = true := by
    have := d.isLt
    simpa [dataFits] using this
  simp [Statement, encode, Frame.wellFormed, regNumber_fits, hd]

theorem hrdb (a : U32) : Statement (.hrdb a) := by
  simp [Statement, encode, Frame.wellFormed, noData]

theorem hwrb (a : U32) (b : Byte) : Statement (.hwrb a b) := by
  have hd : dataFits 8 (some (b.setWidth 64)) = true := by
    have := b.isLt
    simp only [dataFits, BitVec.toNat_setWidth, decide_eq_true_eq]
    omega
  simpa [Statement, encode, Frame.wellFormed] using hd

end Sys2Proof.Laws.WellFormedEncoding
end

