-- ==== Sys2Proof/Tests/Slice0.lean ====
section
/-! SUPPORT. Tests of one step each on small states, their expected values from spec/95_test_vectors.md and the examples of
the rules; and a witness for the hypotheses of each statement. -/

namespace Sys2Proof.Tests

open Sys2Proof.Machine

/-! ### Helpers -/

/-- A field of the next state, if there is one. -/
def after {α : Type} (o : Host.Outcome State Fault Refusal) (f : State → α) : Option α :=
  match o with
  | .next t => some (f t)
  | .fault _ => none
  | .refused _ => none

/-- Bytes written at consecutive addresses. -/
def written (a : Nat) (bs : List Byte) : Memory :=
  (List.range bs.length).map fun i => (a + i, bs.getD i 0)

/-- The bytes 00, 01, ... of 95_test_vectors.md. -/
def upTo (n : Nat) : List Byte :=
  (List.range n).map (BitVec.ofNat 8)

/-- `IV_ref` (42_siphash_stream.md). -/
def ivRef : SipState :=
  ⟨0x7469686173716475, 0x6b617f6d656e6665, 0x6b7f62616d677361, 0x7b6b696e727e6c7b⟩

/-- The operand registers with the reference key. -/
def refKey : OperandRegs :=
  { OperandRegs.reset with k0 := 0x0706050403020100, k1 := 0x0F0E0D0C0B0A0908 }

/-- A context with the reference key, `count` bytes absorbed into nothing but the tail. -/
def refCtx (count tail : U64) : SipCtx :=
  { v := ivRef, count := count, tail := tail, valid := true }

/-- A state with the given operand registers and context, and bytes of DMEM written from 0. -/
def mk (r : OperandRegs) (c : SipCtx) (bs : List Byte) : State :=
  { State.reset with regs := r, ctx := c, dmem := written 0 bs }

/-- A state with a captured error. -/
def failed : State :=
  { State.reset with errs := ⟨true, 1, 0⟩ }

/-- The operands of vector F2 of 95_test_vectors.md section 3.4. -/
def f2 : OperandRegs :=
  { refKey with
    val0 := 0x0706050403020100, val1 := 0x0F0E0D0C0B0A0908, val2 := 0x1716151413121110, val3 := 0x1F1E1D1C1B1A1918
    extra := 0x23242526 }

/-- The operands of vector B2 of section 3.6, DST as given. -/
def b2 (dst : U32) : State :=
  mk { OperandRegs.reset with aux := 0, src := 0x20, dst := dst, index := 0x01020304, header := 0x02 } SipCtx.reset (upTo 64)

/-! ### WellFormed: an ill-formed frame for each check -/

theorem test_wf_reserved_bits : (Frame.cmdw 0x00000101).wellFormed = false := by decide
theorem test_wf_unassigned_opcode : (Frame.cmdw 0x00000014).wellFormed = false := by decide
theorem test_wf_zero_word : (Frame.cmdw 0).wellFormed = false := by decide
theorem test_wf_register_number : (Frame.host ⟨0, 256, none⟩).wellFormed = false := by decide
theorem test_wf_write_register_number : (Frame.host ⟨1, 256, some 0⟩).wellFormed = false := by decide
theorem test_wf_read_with_data : (Frame.host ⟨0, 1, some 0⟩).wellFormed = false := by decide
theorem test_wf_byte_read_with_data : (Frame.host ⟨2, 1, some 0⟩).wellFormed = false := by decide
theorem test_wf_write_without_data : (Frame.host ⟨1, 4, none⟩).wellFormed = false := by decide
theorem test_wf_byte_data_too_wide : (Frame.host ⟨3, 4, some 256⟩).wellFormed = false := by decide
theorem test_wf_loadb_past_the_top : (Pseudo.loadb 0xFFFFFFFF [1, 2]).wellFormed = false := by decide
theorem test_wf_legal : (Frame.cmdw 0x30).wellFormed = true ∧ (Frame.host ⟨3, 0xFFFFFFFF, some 255⟩).wellFormed = true := by
  decide

/-! ### Decode: words written out bit by bit (30_encoding.md R56, R58) and triples (R67, programs P1 to P4) -/

theorem test_decode_mur32 : decode (.cmdw 0b00000000000000000000000000000001) = .ok .mur32 := by rfl
theorem test_decode_sipinit : decode (.cmdw 0b00000000000000000000000000010000) = .ok .sipinit := by rfl
theorem test_decode_sipword : decode (.cmdw 0b00000000000000000000000000010001) = .ok .sipword := by rfl
theorem test_decode_sipbytes : decode (.cmdw 0b00000000000000000000000000010010) = .ok .sipbytes := by rfl
theorem test_decode_sipfinal : decode (.cmdw 0b00000000000000000000000000010011) = .ok .sipfinal := by rfl
theorem test_decode_sip256 : decode (.cmdw 0b00000000000000000000000000100000) = .ok .sip256 := by rfl
theorem test_decode_sip256x : decode (.cmdw 0b00000000000000000000000000100001) = .ok .sip256x := by rfl
theorem test_decode_bip32h : decode (.cmdw 0b00000000000000000000000000110000) = .ok .bip32h := by rfl
theorem test_decode_hrd : decode (.host ⟨0b00, 23, none⟩) = .ok (.hrd 23) := by rfl
theorem test_decode_hwr : decode (.host ⟨0b01, 6, some 0x00000000deadbeef⟩) = .ok (.hwr 6 0xdeadbeef) := by rfl
theorem test_decode_hrdb : decode (.host ⟨0b10, 0x1000, none⟩) = .ok (.hrdb 0x1000) := by rfl
theorem test_decode_hwrb : decode (.host ⟨0b11, 0x40, some 0x0e⟩) = .ok (.hwrb 0x40 0x0e) := by rfl
theorem test_decode_illegal : decode (.cmdw 0x100) = .error .reservedBits ∧ decode (.cmdw 0x14) = .error .unassignedOpcode := by
  exact ⟨rfl, rfl⟩

/-- R67: SIPBYTES encodes as (1, 0, 0x0000000000000012). -/
theorem test_issue_sipbytes : Instr.issue .sipbytes = ⟨1, 0, some 0x0000000000000012⟩ := by decide

theorem test_table_word_command : decodeTableWord 32 0x21 = some .sip256x := by decide
theorem test_table_word_hwrb : decodeTableWord 8 3 = some (.hwrb 0 0) := by decide

/-- R66: the expansion of SIPB. -/
theorem test_pseudo_sipb : (Pseudo.sipb 0x40 3).expand = [.hwr 13 0x40, .hwr 14 3, .sipbytes] := by decide

/-! ### Steps -/

theorem test_step_runs_a_command : after (step ((mk f2 SipCtx.reset []).withFetchWord 32 0x20)) State.result =
    some 0x7127512f72f27cce := by decide +kernel
theorem test_step_refuses_no_transaction :
    step { State.reset with port := [.transact ⟨0, 256, none⟩] } =
      .refused (.malformedTransaction .registerNumberRange) := by rfl
theorem test_reset_during_drops_the_held :
    after (step { failed with port := [.resetDuring 0x12 (some ⟨0, 3, none⟩)] }) (fun t => (t.errs.err, t.responses, t.port)) =
      some (false, [], []) := by decide

/-! ### Primitives (95_test_vectors.md section 3.2) -/

/-- P9. -/
theorem test_sipRound_ref : sipRound ivRef =
    ⟨0x6864848c93698c85, 0x41d43f143c94a7dc, 0xf3f94792d7121732, 0x5e52f75805987c12⟩ := by decide +kernel
/-- P11. -/
theorem test_sipFinish_zero : sipFinish ⟨0, 0, 0, 0⟩ 0 = 0x3c4ceb5cc070daa0 := by decide +kernel
/-- P2, P4. -/
theorem test_rotations : rotl32 0x12345678 13 = 0x8acf0246 ∧ rotl64 0x0123456789abcdef 32 = 0x89abcdef01234567 := by
  decide +kernel
/-- P16. -/
theorem test_le : le32 0x00 0x11 0x22 0x33 = 0x33221100 ∧ leBytes (upTo 8) = 0x0706050403020100 := by decide +kernel
/-- P15. -/
theorem test_be32 : (be32Bytes 0x01020304).toList = [0x01, 0x02, 0x03, 0x04] := by decide
/-- R104 and R105's examples. -/
theorem test_murBlock : murBlock 0 0x33221100 = 0x1d4053e6 ∧ murTail 0x1d4053e6 [0x44] = 0xfd9f11c0 := by decide +kernel

/-! ### Instructions, at most two tests each -/

/-- M3: 00 11 22 33 44, a block and a tail. -/
theorem test_mur32_block_and_tail :
    after (exec .mur32 (mk { OperandRegs.reset with len := 5 } SipCtx.reset [0x00, 0x11, 0x22, 0x33, 0x44])) State.result =
      some 0xe2301fa8 := by decide +kernel
/-- M9: the range check does not wrap. -/
theorem test_mur32_range : after (exec .mur32 (mk { OperandRegs.reset with src := 0xfffffff0, len := 0x20 } SipCtx.reset []))
    (fun t => (t.readReg .status, t.errs.einfo)) = some (0x401, 0x1) := by decide +kernel

/-- S1. -/
theorem test_sipinit : after (exec .sipinit (mk refKey (refCtx 3 0x020100) [])) State.ctx = some (refCtx 0 0) := by
  decide +kernel
/-- H15: bits 63:32 of the CMD write are dropped. -/
theorem test_sipinit_by_cmd_write : after (exec (.hwr 0 0xffffffff00000010) State.reset) (fun t => t.readReg .status) =
    some 0x2 := by decide +kernel

/-- S5. -/
theorem test_sipword : after (exec .sipword (mk { refKey with word := 0x0706050403020100 } (refCtx 0 0) []))
    State.ctx = some ⟨⟨0x4a017198de0a59e0, 0x0d52f6f62a4f59a4, 0x634cb3577b01fd3d, 0xa5224d6f55c7d9c8⟩, 8, 0, true⟩ := by
  decide +kernel
/-- E3: SIP_UNALIGNED leaves the context alone. -/
theorem test_sipword_unaligned : after (exec .sipword (mk refKey (refCtx 3 0x020100) []))
    (fun t => (t.readReg .status, t.errs.einfo, t.ctx)) = some (0x303, 0x11, refCtx 3 0x020100) := by decide +kernel

/-- S3. -/
theorem test_sipbytes_tail : after (exec .sipbytes (mk { refKey with len := 7 } (refCtx 0 0) (upTo 7))) State.ctx =
    some (refCtx 7 0x0006050403020100) := by decide +kernel
/-- R92's example: the eighth byte fills the group. -/
theorem test_sipbytes_fills_group :
    after (exec .sipbytes (mk { refKey with len := 1 } (refCtx 7 0x0006050403020100) [0x07])) State.ctx =
      some ⟨⟨0x4a017198de0a59e0, 0x0d52f6f62a4f59a4, 0x634cb3577b01fd3d, 0xa5224d6f55c7d9c8⟩, 8, 0, true⟩ := by
  decide +kernel

/-- S2. -/
theorem test_sipfinal_empty : after (exec .sipfinal (mk refKey (refCtx 0 0) [])) State.result = some 0x726fdb47dd0e0e31 := by
  decide +kernel
/-- S4. -/
theorem test_sipfinal_seven_bytes :
    after (exec .sipfinal (mk refKey (refCtx 7 0x0006050403020100) [])) (fun t => (t.result, t.ctx)) =
      some (0xab0200f58b01d137, refCtx 7 0x0006050403020100) := by decide +kernel

/-- F1. -/
theorem test_sip256 : after (exec .sip256 (mk f2 SipCtx.reset [])) State.result = some 0x7127512f72f27cce := by decide +kernel
/-- F3. -/
theorem test_sip256_zero : after (exec .sip256 State.reset) State.result = some 0x6c37e103dfa2827d := by decide +kernel

/-- F2. -/
theorem test_sip256x : after (exec .sip256x (mk f2 SipCtx.reset [])) State.result = some 0xca0df6f1da089da7 := by decide +kernel
/-- F4: EXTRA = 0 still gives length byte 36. -/
theorem test_sip256x_zero : after (exec .sip256x State.reset) State.result = some 0x307d4d01017a16fc := by decide +kernel

/-- B2: the message sent to the HMAC unit. -/
theorem test_bip32h_message : after (exec .bip32h (b2 0x100)) (fun t => t.hmacCalls.map fun c => (c.key.toList, c.msg.toList)) =
    some [(upTo 32, [0x02] ++ (upTo 64).drop 32 ++ [0x01, 0x02, 0x03, 0x04])] := by decide +kernel
/-- B4: DST + 64 one past the end: no HMAC call, DMEM unchanged. -/
theorem test_bip32h_range : after (exec .bip32h (b2 4033)) (fun t => (t.readReg .status, t.errs.einfo, t.hmacCalls, t.dmem)) =
    some (0x401, 0x30, [], written 0 (upTo 64)) := by decide +kernel

/-- H4. -/
theorem test_hrd_unmapped : after (exec (.hrd 200) State.reset) (fun t => (t.responses, t.readReg .status, t.errs.einfo)) =
    some ([.reg 0], 0x501, 0xC8) := by decide +kernel
/-- E10: the first error is kept. -/
theorem test_hrd_first_error_wins : after (exec (.hrd 30) failed) (fun t => (t.responses, t.readReg .status)) =
    some ([.reg 0], 0x101) := by decide +kernel

/-- H9: SEED keeps the low 32 bits. -/
theorem test_hwr_truncates : after (exec (.hwr 12 0x1FBA4C795) State.reset) (fun t => t.readReg .seed) = some 0xFBA4C795 := by
  decide +kernel
/-- H5: SV0 is read-only. -/
theorem test_hwr_read_only : after (exec (.hwr 19 5) State.reset) (fun t => (t.readReg .status, t.errs.einfo, t.ctx.v.v0)) =
    some (0x501, 0x0000000100000013, 0) := by decide +kernel

/-- H12's last step: HRDB out of range, first error kept. -/
theorem test_hrdb_range : after (exec (.hrdb 5000) State.reset) (fun t => (t.responses, t.readReg .status, t.errs.einfo)) =
    some ([.byte 0], 0x601, 0x1388) := by decide +kernel
/-- H10's read. -/
theorem test_hrdb : after (exec (.hrdb 5) { State.reset with dmem := [(5, 0xAB)] }) State.responses = some [.byte 0xAB] := by
  decide

/-- H10's write, between two written bytes. -/
theorem test_hwrb : after (exec (.hwrb 5 0xAB) { State.reset with dmem := [(4, 1), (6, 2)] }) State.dmem =
    some [(4, 1), (5, 0xAB), (6, 2)] := by decide
/-- H11. -/
theorem test_hwrb_range : after (exec (.hwrb 4096 1) State.reset) (fun t => (t.readReg .status, t.errs.einfo, t.dmem)) =
    some (0x601, 0x0000000100001000, []) := by decide +kernel

/-! ### Witnesses: concrete states and operands that meet the hypotheses of each statement -/

/-- A live context at a group boundary, 16 bytes of DMEM from 0. -/
def live : State :=
  mk { refKey with len := 16 } (refCtx 8 0) (upTo 16)

/-- The state with `e` as the only thing the host has done. -/
def pending (s : State) (e : HostEvent) : State :=
  { s with port := [e] }

theorem witness_DecodedFrameIsTheEncoding :
    decode (.host ⟨3, 0xFFFFFFFF, some 0xFF⟩) = .ok (.hwrb 0xFFFFFFFF 0xFF) := by rfl
theorem witness_StepRunsTheDecodedTransaction :
    (pending State.reset (.transact ⟨3, 5, some 0xAB⟩)).port = .transact ⟨3, 5, some 0xAB⟩ :: [] ∧
      decode (.host ⟨3, 5, some 0xAB⟩) = .ok (.hwrb 5 0xAB) := ⟨rfl, rfl⟩
theorem witness_StepRunsTheIssuedInstruction :
    (pending State.reset (.transact (Instr.issue .bip32h))).port = .transact (Instr.issue .bip32h) :: [] := rfl
theorem witness_StepWaitsForTheHost : State.reset.port = [] := rfl
theorem witness_ResetClearsEveryRegister : (pending live .reset).port = .reset :: [] := rfl
theorem witness_ResetContextIsUnusableUntilSipinit :
    (pending live .reset).port = .reset :: [] ∧ (∀ i ∈ [Instr.hwr 4 1], issuedCommand i ≠ some .sipinit) ∧
      runInstrs [.hwr 4 1] (live.withPort []).resetCore =
        .next ((live.withPort []).resetCore.withRegs { OperandRegs.reset with k0 := 1 }) ∧
      ((live.withPort []).resetCore.withRegs { OperandRegs.reset with k0 := 1 }).errs.err = false :=
  ⟨rfl, by decide, rfl, rfl⟩
theorem witness_ResetDuringACommandAbandonsIt :
    (pending live (.resetDuring 0x12 none)).port = .resetDuring 0x12 none :: [] ∧
      (pending (b2 0x100) (.resetDuring 0x30 none)).port = .resetDuring 0x30 none :: [] ∧
      (0xFF : Nat) < (b2 0x100).regs.dst.toNat ∧ (b2 0x100).regs.dst.toNat + 64 ≤ 0x140 := ⟨rfl, rfl, by decide, by decide⟩
theorem witness_StepKeepsDmemCanonical :
    live.MemInv ∧ step (pending live (.transact (Instr.issue (.hwrb 4095 1)))) = .next (live.writeByte 4095 1) :=
  ⟨by decide +kernel, rfl⟩
theorem witness_StepKeepsTheContextInvariant :
    live.CtxInv ∧ step (pending live (.transact (Instr.issue .sipbytes))) = .next (live.withCtx (live.ctx.absorbBytes live.dataBytes)) :=
  ⟨by decide +kernel, rfl⟩
theorem witness_StepKeepsTheErrorInvariant :
    State.reset.ErrInv ∧ failed.ErrInv ∧
      step (pending State.reset (.transact (Instr.issue (.hrdb 4096)))) =
        .next ((State.reset.raiseError .hostRange 4096).respond (.byte 0)) :=
  ⟨by decide, by decide, rfl⟩
theorem witness_StepKeepsDmemSize : step (pending live .reset) = .next live.resetCore := rfl
theorem witness_OnlySipinitChangesContextValid :
    exec .sipinit State.reset = .next (State.reset.withCtx (SipCtx.init 0 0)) ∧ State.reset.ctx.valid = false ∧
      (SipCtx.init 0 0).valid = true ∧ exec .sipfinal live = .next (live.withResult live.ctx.digest) ∧ live.ctx.valid = true :=
  ⟨rfl, rfl, rfl, rfl, rfl⟩
theorem witness_OnlyRegisterWritesChangeOperandRegisters :
    exec (.hwr 4 7) State.reset = .next (State.reset.withRegs { OperandRegs.reset with k0 := 7 }) ∧
      isOperandReg .k0 = true ∧
      (State.reset.withRegs { OperandRegs.reset with k0 := 7 }).readReg .k0 ≠ State.reset.readReg .k0 :=
  ⟨rfl, rfl, by decide⟩
theorem witness_OnlyDigestCommandsChangeResult :
    exec .sip256 State.reset = .next (State.reset.withResult (sip256Digest OperandRegs.reset)) ∧
      (State.reset.withResult (sip256Digest OperandRegs.reset)).result ≠ State.reset.result := ⟨rfl, by decide +kernel⟩
theorem witness_OnlyStreamCommandsChangeTheContext :
    exec .sipinit State.reset = .next (State.reset.withCtx (SipCtx.init 0 0)) ∧ SipCtx.init 0 0 ≠ State.reset.ctx :=
  ⟨rfl, by decide +kernel⟩
theorem witness_OnlyHwrbAndBip32hChangeDmem :
    exec (.hwrb 5 0xAB) live = .next (live.writeByte 5 0xAB) ∧ (live.writeByte 5 0xAB).readByte 5 ≠ live.readByte 5 :=
  ⟨rfl, by decide +kernel⟩
theorem witness_OnlyCaptureAndClearChangeTheError :
    exec (.hwr 1 1) failed = .next State.reset ∧ State.reset.errs ≠ failed.errs ∧
      exec .sipword State.reset = .next (State.reset.raiseError .sipNoctx 0x11) ∧
      (State.reset.raiseError .sipNoctx 0x11).errs ≠ State.reset.errs := ⟨rfl, by decide, rfl, by decide⟩
theorem witness_OneHmacCallPerSuccessfulBip32h :
    exec .bip32h (b2 4032) = .next (((b2 4032).memWrite 4032 (b2 4032).bip32Call.answer.toList).recordCall (b2 4032).bip32Call) ∧
      exec .bip32h (b2 4033) = .next ((b2 4033).raiseError .dmemRange 0x30) := ⟨rfl, rfl⟩
theorem witness_EachReadGivesOneResponse :
    exec (.hrdb 5) live = .next (live.respond (.byte 5)) ∧ exec (.hrd 25) failed = .next (failed.respond (.reg 0)) := ⟨rfl, rfl⟩
theorem witness_IllegalCommandWordIsCaptured :
    State.reset.errs.err = false ∧ ((0x100 : U64).setWidth 32).extractLsb' 8 24 ≠ 0 ∧
      ((0x14 : U64).setWidth 32).extractLsb' 0 8 ∉ ([0x01, 0x10, 0x11, 0x12, 0x13, 0x20, 0x21, 0x30] : List (BitVec 8)) := by
  decide
theorem witness_StreamCommandWithoutContextIsCaptured : State.reset.errs.err = false ∧ State.reset.ctx.valid = false :=
  ⟨rfl, rfl⟩
theorem witness_UnalignedSipwordIsCaptured :
    (mk refKey (refCtx 7 1) []).errs.err = false ∧ (mk refKey (refCtx 7 1) []).ctx.valid = true ∧
      (mk refKey (refCtx 7 1) []).ctx.count.toNat % 8 ≠ 0 := ⟨rfl, rfl, by decide⟩
theorem witness_OperandOutsideDmemIsCaptured :
    (mk { refKey with src := 4090, len := 7 } (refCtx 0 0) []).errs.err = false ∧
      (mk { refKey with src := 4090, len := 7 } (refCtx 0 0) []).regs.src.toNat +
        (mk { refKey with src := 4090, len := 7 } (refCtx 0 0) []).regs.len.toNat > State.reset.dmemSize ∧
      (mk { refKey with src := 4090, len := 7 } (refCtx 0 0) []).ctx.valid = true ∧
      (b2 4033).errs.err = false ∧ (b2 4033).regs.dst.toNat + 64 > (b2 4033).dmemSize ∧
      (mk { refKey with aux := 4065 } SipCtx.reset []).regs.aux.toNat + 32 > State.reset.dmemSize ∧
      (mk { refKey with src := 4065 } SipCtx.reset []).regs.src.toNat + 32 > State.reset.dmemSize := by decide
theorem witness_RangeCheckDoesNotWrap :
    (mk { refKey with src := 0xFFFFFFF0, len := 0x20 } SipCtx.reset []).SizeInv ∧
      (mk { refKey with src := 0xFFFFFFF0, len := 0x20 } SipCtx.reset []).errs.err = false ∧
      (mk { refKey with src := 4096 } SipCtx.reset []).errs.err = false ∧
      (mk { refKey with src := 4096 } SipCtx.reset []).regs.src.toNat = State.reset.dmemSize ∧
      (mk { refKey with src := 4096 } SipCtx.reset []).regs.len = 0 := by decide
theorem witness_CommandErrorPriority :
    failed.errs.err = true ∧ State.reset.errs.err = false ∧
      ∀ c : Command, decode (.cmdw ((0 : U64).setWidth 32)) ≠ .ok c.toInstr :=
  ⟨rfl, rfl, fun c h => by cases h⟩
theorem witness_ErrorFreezesTheCoreUntilCleared :
    failed.errs.err = true ∧ (∀ i ∈ [Instr.sip256, .hwr 1 0, .hwrb 6 1], clearsError i = false) ∧
      runInstrs [.sip256, .hwr 1 0, .hwrb 6 1] failed = .next (failed.writeByte 6 1) ∧
      ∀ (x : U32) (b : Byte), Instr.hwrb x b ∈ [Instr.sip256, .hwr 1 0, .hwrb 6 1] → x.toNat ≠ 5 :=
  ⟨rfl, by decide, rfl, by
    intro x b h
    simp only [List.mem_cons, List.not_mem_nil, or_false, reduceCtorEq, false_or, Instr.hwrb.injEq] at h
    rw [h.1]
    decide⟩
theorem witness_RegisterReadTable :
    ((24, live.ctx.tail) : BitVec 8 × U64) ∈ [((23 : BitVec 8), live.ctx.count), (24, live.ctx.tail)] ∧
      25 ≤ (25 : BitVec 8).toNat ∧ 25 ≤ (255 : BitVec 8).toNat := by decide
theorem witness_RegisterWriteTable :
    ((18, { live.regs with header := (0x1ff : U64).setWidth 8 }) : BitVec 8 × OperandRegs) ∈
        [((4 : BitVec 8), { live.regs with k0 := 0x1ff }), (18, { live.regs with header := (0x1ff : U64).setWidth 8 })] ∧
      (24 : BitVec 8) ∈ ([2, 3, 19, 20, 21, 22, 23, 24] : List (BitVec 8)) ∧ 25 ≤ (25 : BitVec 8).toNat := by decide +kernel
theorem witness_CommandDispatch :
    failed.errs.err = true ∧ State.reset.errs.err = false ∧ (∀ c : Command, decode (.cmdw 0x14) ≠ .ok c.toInstr) ∧
      decode (.cmdw 0x13) = .ok Command.sipfinal.toInstr ∧
      exec Command.sipfinal.toInstr State.reset = .next (State.reset.raiseError .sipNoctx 0x13) ∧
      (State.reset.raiseError .sipNoctx 0x13).errs ≠ State.reset.errs := by
  refine ⟨rfl, rfl, ?_, rfl, rfl, by decide⟩
  intro c h
  cases h
theorem witness_StatusReadBits : (63 : Nat) < 64 ∧ (15 : Nat) < 64 := by decide
theorem witness_DmemByteRead : (4095 : U32).toNat < State.reset.dmemSize ∧ State.reset.dmemSize ≤ (4096 : U32).toNat := by decide
theorem witness_DmemByteWrite : (4095 : U32).toNat < live.dmemSize ∧ live.dmemSize ≤ (4096 : U32).toNat := by decide
theorem witness_PortRoundTrip_register :
    isOperandReg .header = true ∧ (∀ d', Instr.hwr (regNumberOf .header) d' ∉ [Instr.hwr 4 7, .sip256]) ∧
      runInstrs (.hwr (regNumberOf .header) 0x1ff :: [.hwr 4 7]) State.reset =
        .next (State.reset.withRegs { OperandRegs.reset with header := 0xff, k0 := 7 }) :=
  ⟨rfl, fun d' h => by simp [regNumberOf] at h, rfl⟩
theorem witness_PortRoundTrip_byte :
    (5 : U32).toNat < State.reset.dmemSize ∧ exec (.hwrb 5 0xAB) State.reset = .next (State.reset.writeByte 5 0xAB) ∧
      NeverAlong (fun i v => (∃ b', i = .hwrb 5 b') ∨ (issuedCommand i = some .bip32h ∧ v.errs.err = false ∧
        v.bip32InDmem = true ∧ v.regs.dst.toNat ≤ (5 : U32).toNat ∧ (5 : U32).toNat < v.regs.dst.toNat + 64))
        [.hwrb 6 1] (State.reset.writeByte 5 0xAB) ∧
      runInstrs [.hwrb 6 1] (State.reset.writeByte 5 0xAB) = .next ((State.reset.writeByte 5 0xAB).writeByte 6 1) := by
  refine ⟨by decide, rfl, ⟨?_, fun t _ => trivial⟩, rfl⟩
  rintro (⟨b, h⟩ | ⟨h, _⟩)
  · exact absurd (Instr.hwrb.inj h).1 (by decide)
  · cases h
theorem witness_LoadbLoadsItsBytes : State.reset.SizeInv ∧ 4092 + ([1, 2, 3, 4] : List Byte).length ≤ State.reset.dmemSize := by
  decide
theorem witness_RotationBits : 1 ≤ 31 ∧ 31 ≤ 31 ∧ 31 < 32 ∧ 1 ≤ 63 ∧ 63 ≤ 63 ∧ 63 < 64 := by decide
theorem witness_ByteOrderOfAssembledWords : (upTo 8).length ≤ 8 ∧ 7 < (upTo 8).length ∧ ([] : List Byte).length ≤ 8 := by decide
theorem witness_Mur32ComputesTheReferenceDigest :
    live.errs.err = false ∧ live.regs.src.toNat + live.regs.len.toNat ≤ live.dmemSize := by decide
theorem witness_Mur32CornerCases :
    (mk { refKey with src := 4096 } SipCtx.reset []).errs.err = false ∧
      (mk { refKey with src := 4096 } SipCtx.reset []).regs.src.toNat ≤ State.reset.dmemSize ∧
      (mk { refKey with src := 4096 } SipCtx.reset []).regs.len = 0 ∧
      (mk { refKey with src := 4092, len := 4 } SipCtx.reset []).regs.src.toNat + 4 ≤ State.reset.dmemSize ∧
      (mk { refKey with src := 4092, len := 4 } SipCtx.reset []).regs.len = 4 ∧
      (mk { refKey with len := 1 } SipCtx.reset [0]).regs.src.toNat + 1 ≤ State.reset.dmemSize ∧
      (mk { refKey with len := 1 } SipCtx.reset [0]).regs.len = 1 ∧ (mk { refKey with len := 1 } SipCtx.reset [0]).regs.seed = 0 ∧
      (mk { refKey with len := 1 } SipCtx.reset [0]).readByte 0 = 0 := by decide
theorem witness_Mur32DependsOnlyOnSeedAndData :
    let s := mk { refKey with len := 3 } SipCtx.reset [1, 2, 3]
    let s' := mk { OperandRegs.reset with src := 2, len := 3 } (refCtx 5 9) [7, 7, 1, 2, 3]
    s.errs.err = false ∧ s'.errs.err = false ∧ s.regs.src.toNat + s.regs.len.toNat ≤ s.dmemSize ∧
      s'.regs.src.toNat + s'.regs.len.toNat ≤ s'.dmemSize ∧ s.regs.seed = s'.regs.seed ∧ s.regs.len = s'.regs.len ∧
      ∀ i < s.regs.len.toNat, s.readByte (s.regs.src.toNat + i) = s'.readByte (s'.regs.src.toNat + i) := by decide
theorem witness_SipinitStartsAFreshContext : live.errs.err = false := rfl
theorem witness_SipwordCompressesOneWord :
    live.errs.err = false ∧ live.ctx.valid = true ∧ live.ctx.count.toNat % 8 = 0 := by decide
theorem witness_SipbytesAbsorbsWholeGroups :
    let s := mk { refKey with len := 9 } (refCtx 7 0x0006050403020100) (upTo 9)
    s.CtxInv ∧ s.errs.err = false ∧ s.ctx.valid = true ∧ s.regs.src.toNat + s.regs.len.toNat ≤ s.dmemSize := by decide +kernel
theorem witness_SipfinalGivesTheDigest : live.errs.err = false ∧ live.ctx.valid = true := ⟨rfl, rfl⟩
theorem witness_SipfinalTwiceGivesTheSameResult : exec .sipfinal live = .next (live.withResult live.ctx.digest) := rfl
theorem witness_BytesAndWordsAbsorbAlike :
    live.SizeInv ∧ live.CtxInv ∧ live.errs.err = false ∧ live.ctx.valid = true ∧ live.ctx.count.toNat % 8 = 0 ∧
      live.regs.src.toNat + live.regs.len.toNat ≤ live.dmemSize ∧
      live.memRead live.regs.src.toNat live.regs.len.toNat =
        ([0x0706050403020100, 0x0F0E0D0C0B0A0908] : List U64).flatMap wordBytes ∧
      ([3, 5, 0, 8] : List Nat).sum = live.regs.len.toNat := by decide +kernel
theorem witness_StreamDigestIsSipHash24 :
    State.reset.errs.err = false ∧ exec .sipinit State.reset = .next (State.reset.withCtx (SipCtx.init 0 0)) ∧
      (∀ i ∈ [Instr.hwr 6 5, .sipword], issuedCommand i ≠ some .sipinit) ∧
      runInstrs [.hwr 6 5, .sipword] (State.reset.withCtx (SipCtx.init 0 0)) =
        .next ((State.reset.withRegs { OperandRegs.reset with word := 5 }).withCtx ((SipCtx.init 0 0).absorbWord 5)) ∧
      ((State.reset.withRegs { OperandRegs.reset with word := 5 }).withCtx ((SipCtx.init 0 0).absorbWord 5)).errs.err = false :=
  ⟨rfl, rfl, by decide, rfl, rfl⟩
theorem witness_Sip256xIsSipHash24OfTheLimbsAndExtra : (mk f2 SipCtx.reset []).errs.err = false := rfl
theorem witness_FixedVariantsIgnoreTheContext : Instr.sip256x ∈ [Instr.sip256, Instr.sip256x] := by decide
theorem witness_Sip256EqualsTheStreamingPath : (mk f2 (refCtx 3 5) []).errs.err = false := rfl
theorem witness_Sip256xEqualsTheStreamingPath :
    let s := mk f2 SipCtx.reset [0x26, 0x25, 0x24, 0x23]
    s.errs.err = false ∧ (0 : U32).toNat + 4 ≤ s.dmemSize ∧
      s.memRead (0 : U32).toNat 4 = [s.regs.extra.extractLsb' 0 8, s.regs.extra.extractLsb' 8 8, s.regs.extra.extractLsb' 16 8,
        s.regs.extra.extractLsb' 24 8] := by decide +kernel

/-- B2's call on the HMAC port, written out. -/
def b2Call : HmacCall :=
  { key := #v[0x00, 0x01, 0x02, 0x03, 0x04, 0x05, 0x06, 0x07, 0x08, 0x09, 0x0a, 0x0b, 0x0c, 0x0d, 0x0e, 0x0f, 0x10, 0x11, 0x12,
      0x13, 0x14, 0x15, 0x16, 0x17, 0x18, 0x19, 0x1a, 0x1b, 0x1c, 0x1d, 0x1e, 0x1f]
    msg := #v[0x02, 0x20, 0x21, 0x22, 0x23, 0x24, 0x25, 0x26, 0x27, 0x28, 0x29, 0x2a, 0x2b, 0x2c, 0x2d, 0x2e, 0x2f, 0x30, 0x31,
      0x32, 0x33, 0x34, 0x35, 0x36, 0x37, 0x38, 0x39, 0x3a, 0x3b, 0x3c, 0x3d, 0x3e, 0x3f, 0x01, 0x02, 0x03, 0x04] }

/-- B3: the output overlaps both inputs. -/
theorem witness_Bip32hFramesCallsAndStores :
    let s := b2 0
    s.errs.err = false ∧ s.regs.aux.toNat + 32 ≤ s.dmemSize ∧ s.regs.src.toNat + 32 ≤ s.dmemSize ∧
      s.regs.dst.toNat + 64 ≤ s.dmemSize ∧
      (∀ (i : Nat) (h : i < 32), b2Call.key[i] = s.readByte (s.regs.aux.toNat + i)) ∧
      b2Call.msg[0] = s.regs.header ∧
      (∀ (i : Nat) (h : i < 32), b2Call.msg[i + 1] = s.readByte (s.regs.src.toNat + i)) ∧
      b2Call.msg[33] = s.regs.index.extractLsb' 24 8 ∧ b2Call.msg[34] = s.regs.index.extractLsb' 16 8 ∧
      b2Call.msg[35] = s.regs.index.extractLsb' 8 8 ∧ b2Call.msg[36] = s.regs.index.extractLsb' 0 8 := by decide +kernel
theorem witness_Bip32hIsDeterministic :
    (b2 0).errs.err = false ∧ (b2 4032).errs.err = false ∧ (b2 0).bip32InDmem = true ∧ (b2 4032).bip32InDmem = true ∧
      (b2 0).regs.header = (b2 4032).regs.header ∧ (b2 0).regs.index = (b2 4032).regs.index ∧
      (∀ i < 32, (b2 0).readByte ((b2 0).regs.aux.toNat + i) = (b2 4032).readByte ((b2 4032).regs.aux.toNat + i)) ∧
      ∀ i < 32, (b2 0).readByte ((b2 0).regs.src.toNat + i) = (b2 4032).readByte ((b2 4032).regs.src.toNat + i) := by
  decide +kernel

end Sys2Proof.Tests
end

section
/-! Decoding of each kind of frame the spec has (30_encoding.md R58, R62, R63), with every operand at every value. -/

namespace Sys2Proof

/-- The full word of a command decodes to its instruction (R58). -/
@[simp] theorem decode_commandWord (c : Command) : decode (.cmdw (commandWord c)) = .ok c.toInstr := by
  rw [decode, Machine.decodeCommand_commandWord]
  rfl

/-- The low byte of a zero-extended byte. -/
theorem lowByte_setWidth {w : Nat} (hw : 8 ≤ w) (b : Byte) : (b.setWidth w).extractLsb' 0 8 = b := by
  rw [BitVec.extractLsb'_setWidth_of_le hw, BitVec.extractLsb'_eq_self]

/-- Every 8-bit register number is in range as the A field of a register kind (R62). -/
@[simp] theorem regNumber_setWidth (n : BitVec 8) : regNumber (n.setWidth 32) = .ok n := by
  have hfits : (n.setWidth 32).toNat < 256 := by
    simpa [fitsRegNumber] using Laws.WellFormedEncoding.regNumber_fits n
  rw [regNumber, if_pos hfits, lowByte_setWidth (by decide)]

/-- KIND 0 with no D (R63). -/
@[simp] theorem decode_registerRead (n : BitVec 8) : decode (.host ⟨0, n.setWidth 32, none⟩) = .ok (.hrd n) := by
  simp [decode, decodeTransaction, Except.map]

/-- KIND 1 with a D of 64 bits (R63). -/
@[simp] theorem decode_registerWrite (n : BitVec 8) (d : U64) :
    decode (.host ⟨1, n.setWidth 32, some d⟩) = .ok (.hwr n d) := by
  simp [decode, decodeTransaction, Except.map]

/-- KIND 2 with no D (R63). -/
@[simp] theorem decode_byteRead (a : U32) : decode (.host ⟨2, a, none⟩) = .ok (.hrdb a) := rfl

/-- KIND 3 with a D that has 8 bits (R62, R63). -/
@[simp] theorem decode_byteWrite (a : U32) (b : Byte) :
    decode (.host ⟨3, a, some (b.setWidth 64)⟩) = .ok (.hwrb a b) := by
  have hfits : (b.setWidth 64).toNat < 256 := by
    rw [BitVec.toNat_setWidth_of_le (by decide)]
    exact b.isLt
  have hlow : (b.setWidth 64).extractLsb' 0 8 = b := lowByte_setWidth (by decide) b
  simp only [decode, decodeTransaction, hfits, hlow, if_true]
  rfl

/-- Settles O4: each clause is the decoding lemma of its kind of frame, at the command or the operands it names. -/
theorem opcodeMapAndTransactionKinds : Obligations.OpcodeMapAndTransactionKinds :=
  ⟨decode_commandWord .mur32, decode_commandWord .sipinit, decode_commandWord .sipword, decode_commandWord .sipbytes,
    decode_commandWord .sipfinal, decode_commandWord .sip256, decode_commandWord .sip256x, decode_commandWord .bip32h,
    decode_registerRead 23, decode_registerWrite 4 0x0706050403020100, decode_byteRead 0x1000,
    decode_byteWrite 0x40 0xAB⟩

end Sys2Proof
end

section
/-! The host port (40_host_port.md R70 to R74): what each transaction does to the state, under its own condition. -/

namespace Sys2Proof.Machine

/-! ### Captured errors -/

/-- A capture as one update of the state: nothing while ERR = 1 (R123), else the three error fields (R122). -/
theorem State.raiseError_eq (s : State) (c : Cause) (i : U64) :
    s.raiseError c i = { s with errs := if s.errs.err then s.errs else ⟨true, c.code, i⟩ } := by
  simp only [State.raiseError, State.withErrs, ErrorRegs.capture]

/-- EINFO of a failing host read (R20). -/
theorem transactionInfo_read (a : U32) : transactionInfo false a = a.setWidth 64 := by
  simp [transactionInfo, bit64]

/-- EINFO of a failing host write (R20). -/
theorem transactionInfo_write (a : U32) : transactionInfo true a = 0x100000000 ||| a.setWidth 64 := by
  have hbit : bit64 true <<< 32 = 0x100000000 := by decide
  rw [transactionInfo, hbit]

/-! ### The register map -/

/-- Every register of R13, in the order of the numbers. -/
def allRegs : List Reg :=
  [.cmd, .status, .einfo, .result, .k0, .k1, .word, .val0, .val1, .val2, .val3, .extra, .seed, .src, .len, .aux, .dst,
    .index, .header, .sv0, .sv1, .sv2, .sv3, .scount, .stail]

/-- The registers a host write may not change (R120). -/
def readOnlyRegs : List Reg :=
  [.einfo, .result, .sv0, .sv1, .sv2, .sv3, .scount, .stail]

theorem regNumberOf_lt (r : Reg) : (regNumberOf r).toNat < 25 := by
  cases r <;> decide

/-- The numbers from 25 on name no register (R31). -/
theorem regOfNumber_of_unmapped {n : BitVec 8} (h : 25 ≤ n.toNat) : regOfNumber n = none := by
  match hr : regOfNumber n with
  | none => rfl
  | some r =>
    have hlt := regNumberOf_lt r
    rw [← regOfNumber_eq hr] at hlt
    omega

/-- A row of the table of register writes says what a write to its number amounts to. -/
theorem regWrite_of_mem_table {n : BitVec 8} {q : OperandRegs} {d : U64} {w : RegWrite} {rs : List Reg}
    (h : (n, w) ∈ rs.map fun r => (regNumberOf r, writeReg q d r)) : (regOfNumber n).map (writeReg q d) = some w := by
  obtain ⟨r, -, hr⟩ := List.mem_map.1 h
  cases hr
  simp

/-! ### Register transactions -/

theorem exec_hrd_regNumberOf (r : Reg) (s : State) :
    exec (.hrd (regNumberOf r)) s = .next (s.respond (.reg (s.readReg r))) := by
  simp only [exec, execHrd, regOfNumber_regNumberOf]

theorem exec_hrd_of_unmapped {n : BitVec 8} (h : regOfNumber n = none) (s : State) :
    exec (.hrd n) s = .next ((s.raiseError .badReg (n.setWidth 64)).respond (.reg 0)) := by
  have hinfo : transactionInfo false (n.setWidth 32) = n.setWidth 64 := by simp [transactionInfo_read]
  simp only [exec, execHrd, h, hinfo]

theorem exec_hwr_of_command {n : BitVec 8} {d : U64} {c : U32} {s : State}
    (h : (regOfNumber n).map (writeReg s.regs d) = some (.command c)) : exec (.hwr n d) s = dispatchCommand c s := by
  simp only [exec, execHwr, h]

theorem exec_hwr_of_status {n : BitVec 8} {d : U64} {s : State}
    (h : (regOfNumber n).map (writeReg s.regs d) = some .status) : exec (.hwr n d) s = .next (s.writeStatus d) := by
  simp only [exec, execHwr, h]

theorem exec_hwr_of_operand {n : BitVec 8} {d : U64} {q : OperandRegs} {s : State}
    (h : (regOfNumber n).map (writeReg s.regs d) = some (.operand q)) : exec (.hwr n d) s = .next (s.withRegs q) := by
  simp only [exec, execHwr, h]

/-- A write to a read-only or an unmapped register (R120). -/
theorem exec_hwr_of_badReg {n : BitVec 8} {d : U64} {s : State}
    (h : (regOfNumber n).map (writeReg s.regs d) = some .readOnly ∨ regOfNumber n = none) :
    exec (.hwr n d) s = .next (s.raiseError .badReg (0x100000000 ||| n.setWidth 64)) := by
  have hinfo : transactionInfo true (n.setWidth 32) = 0x100000000 ||| n.setWidth 64 := by simp [transactionInfo_write]
  rcases h with hro | hnone
  · simp only [exec, execHwr, hro, hinfo]
  · simp only [exec, execHwr, hnone, Option.map_none, hinfo]

/-- Settles O33: a row of the table is a register's number with what a read of it gives; no other number names one. -/
theorem registerReadTable : Obligations.RegisterReadTable := by
  unfold Obligations.RegisterReadTable
  refine ⟨decode_registerRead, fun s n v h => ?_, fun s n h => ?_⟩
  · have hrow : (n, v) ∈ allRegs.map fun r => (regNumberOf r, s.readReg r) := h
    obtain ⟨r, -, hr⟩ := List.mem_map.1 hrow
    cases hr
    rw [exec_hrd_regNumberOf, State.respond]
  · rw [exec_hrd_of_unmapped (regOfNumber_of_unmapped h), State.raiseError_eq]
    rfl

/-- Settles O34: a row of the table is a register's number with what a write to it amounts to, one class of registers per
clause. -/
theorem registerWriteTable : Obligations.RegisterWriteTable := by
  unfold Obligations.RegisterWriteTable
  refine ⟨decode_registerWrite, fun s d => exec_hwr_of_command rfl, fun s d => exec_hwr_of_status rfl,
    fun s d n q h => ?_, fun s d n h => ?_⟩
  · have hrow : (n, RegWrite.operand q) ∈ (allRegs.filter isOperandReg).map fun r => (regNumberOf r, writeReg s.regs d r) :=
      List.mem_map_of_mem (f := Prod.map id RegWrite.operand) h
    rw [exec_hwr_of_operand (regWrite_of_mem_table hrow), State.withRegs]
  · have hbad : (regOfNumber n).map (writeReg s.regs d) = some .readOnly ∨ regOfNumber n = none := by
      rcases h with hro | hge
      · have hrow : (n, RegWrite.readOnly) ∈ readOnlyRegs.map fun r => (regNumberOf r, writeReg s.regs d r) :=
          List.mem_map_of_mem (f := (·, RegWrite.readOnly)) hro
        exact Or.inl (regWrite_of_mem_table hrow)
      · exact Or.inr (regOfNumber_of_unmapped hge)
    rw [exec_hwr_of_badReg hbad, State.raiseError_eq]
    rfl

/-! ### Command dispatch -/

theorem decode_cmdw_eq_toInstr_iff {c : U32} {op : Command} :
    decode (.cmdw c) = .ok op.toInstr ↔ decodeCommand c = .ok op := by
  refine ⟨fun h => ?_, fun h => by rw [← commandWord_of_decode h, decode_commandWord]⟩
  match hd : decodeCommand c with
  | .error e =>
    rw [decode, hd] at h
    cases h
  | .ok op' =>
    rw [decode, hd] at h
    have hsame : some op' = some op := by
      rw [← issuedCommand_toInstr, ← issuedCommand_toInstr, Except.ok.inj h]
    rw [Option.some.inj hsame]

theorem dispatchCommand_of_err {s : State} (he : s.errs.err = true) (c : U32) : dispatchCommand c s = .next s := by
  rw [dispatchCommand, if_pos he]

theorem dispatchCommand_of_illegal {s : State} {c : U32} {e : DecodeError} (he : s.errs.err = false)
    (hd : decodeCommand c = .error e) : dispatchCommand c s = .next (s.raiseError .illegalCmd (commandInfo c)) := by
  simp only [dispatchCommand, he, hd, Bool.false_eq_true, if_false]

theorem dispatchCommand_of_legal {s : State} {c : U32} {op : Command} (he : s.errs.err = false)
    (hd : decodeCommand c = .ok op) : dispatchCommand c s = exec op.toInstr s := by
  simp only [dispatchCommand, he, hd, Bool.false_eq_true, if_false, exec_toInstr]

/-- An error that a command captures carries the word of that command (R72, R122). -/
theorem exec_toInstr_einfo {op : Command} {s t : State} (h : exec op.toInstr s = .next t) (hne : t.errs ≠ s.errs) :
    t.errs.einfo = commandInfo (commandWord op) := by
  rw [exec_toInstr, execCommand_eq] at h
  rcases runCommand_cases h with ⟨_, rfl⟩ | ⟨_, hok⟩ | ⟨e, he, _, rfl⟩
  · exact absurd rfl hne
  · obtain ⟨herrs, -⟩ := effectOf_frame hok
    exact absurd herrs hne
  · rw [State.raiseError_errs, ErrorRegs.capture_of_clear he]

/-- Settles O35: dispatch discards, raises ILLEGAL_CMD or runs the command, as ERR and the decoder say. -/
theorem commandDispatch : Obligations.CommandDispatch := by
  unfold Obligations.CommandDispatch
  refine fun s c => ⟨fun he => dispatchCommand_of_err he c, fun he hill => ?_, fun he op hop => ?_⟩
  · match hd : decodeCommand c with
    | .error e =>
      rw [dispatchCommand_of_illegal he hd, State.raiseError_of_clear he]
      rfl
    | .ok op => exact absurd (decode_cmdw_eq_toInstr_iff.2 hd) (hill op)
  · have hd := decode_cmdw_eq_toInstr_iff.1 hop
    refine ⟨dispatchCommand_of_legal he hd, fun t ht hne => ?_⟩
    rw [exec_toInstr_einfo ht hne, commandWord_of_decode hd, commandInfo]

/-! ### DMEM transactions -/

theorem exec_hrdb_of_lt {a : U32} {s : State} (h : a.toNat < s.dmemSize) :
    exec (.hrdb a) s = .next (s.respond (.byte (s.readByte a.toNat))) := by
  rw [exec, execHrdb, if_pos h]

theorem exec_hrdb_of_ge {a : U32} {s : State} (h : s.dmemSize ≤ a.toNat) :
    exec (.hrdb a) s = .next ((s.raiseError .hostRange (a.setWidth 64)).respond (.byte 0)) := by
  rw [exec, execHrdb, if_neg (not_lt.2 h), transactionInfo_read]

theorem exec_hwrb_of_lt {a : U32} {s : State} (h : a.toNat < s.dmemSize) (b : Byte) :
    exec (.hwrb a b) s = .next (s.writeByte a.toNat b) := by
  rw [exec, execHwrb, if_pos h]

theorem exec_hwrb_of_ge {a : U32} {s : State} (h : s.dmemSize ≤ a.toNat) (b : Byte) :
    exec (.hwrb a b) s = .next (s.raiseError .hostRange (0x100000000 ||| a.setWidth 64)) := by
  rw [exec, execHwrb, if_neg (not_lt.2 h), transactionInfo_write]

/-- Settles O37: the two sides of the range check of R73. -/
theorem dmemByteRead : Obligations.DmemByteRead := by
  unfold Obligations.DmemByteRead
  refine fun s a => ⟨decode_byteRead a, fun h => ?_, fun h => ?_⟩
  · rw [exec_hrdb_of_lt h, State.respond]
  · rw [exec_hrdb_of_ge h, State.raiseError_eq]
    rfl

/-- Settles O38: the two sides of the range check of R74; what the write leaves of DMEM is `State.readByte_writeByte`. -/
theorem dmemByteWrite : Obligations.DmemByteWrite := by
  unfold Obligations.DmemByteWrite
  refine fun s a b => ⟨decode_byteWrite a b, fun h => ⟨_, exec_hwrb_of_lt h b, rfl, ?_, fun x hx => ?_⟩, fun h => ?_⟩
  · rw [State.readByte_writeByte, if_pos rfl]
  · rw [State.readByte_writeByte, if_neg hx]
  · rw [exec_hwrb_of_ge h, State.raiseError_eq]
    rfl

end Sys2Proof.Machine
end

section
/-! What one instruction leaves of the operand registers and of DMEM, what a run of instructions keeps, and the round trip on
the port (40_host_port.md R75). -/

namespace Sys2Proof.Machine

/-! ### One instruction -/

/-- No instruction changes DMEM_SIZE (10_state.md R33). -/
theorem exec_dmemSize {i : Instr} {s t : State} (h : exec i s = .next t) : t.dmemSize = s.dmemSize := by
  cases exec_cases h with
  | completed c hc he t ht =>
    obtain ⟨-, -, hsize, -⟩ := effectOf_frame ht
    exact hsize
  | _ => simp

/-- Only a host write to an operand register writes the operand registers (10_state.md R15). -/
theorem exec_regs {i : Instr} {s t : State} (h : exec i s = .next t) :
    t.regs = s.regs ∨ ∃ r d q, i = .hwr (regNumberOf r) d ∧ writeReg s.regs d r = .operand q ∧ t = s.withRegs q := by
  cases exec_cases h with
  | completed c hc he t ht =>
    obtain ⟨-, hregs, -⟩ := effectOf_frame ht
    exact Or.inl hregs
  | regWrite n r d q hi hr hw =>
    obtain rfl := regOfNumber_eq hr
    exact Or.inr ⟨r, d, q, hi, hw, rfl⟩
  | _ => exact Or.inl (by simp)

/-- Only HWRB at its address and a BIP32H that completes, over its output range, write a byte of DMEM (20_memory.md R39). -/
theorem exec_readByte {i : Instr} {s t : State} (h : exec i s = .next t) (a : Nat) :
    t.readByte a = s.readByte a ∨ (∃ x b, i = .hwrb x b ∧ x.toNat = a) ∨
      (issuedCommand i = some .bip32h ∧ s.errs.err = false ∧ s.bip32InDmem = true ∧ s.regs.dst.toNat ≤ a ∧
        a < s.regs.dst.toNat + 64) := by
  cases exec_cases h with
  | completed c hc he t ht =>
    by_cases hb : c = .bip32h
    · subst hb
      obtain ⟨hin, rfl⟩ := bip32hEffect_cases ht
      rw [State.recordCall_readByte, State.readByte_memWrite, Vector.length_toList]
      split
      · rename_i hr
        exact Or.inr (Or.inr ⟨hc, he, hin, hr⟩)
      · exact Or.inl rfl
    · obtain ⟨hdmem, -⟩ := effectOf_dmem ht hb
      exact Or.inl (State.readByte_of_dmem_eq hdmem a)
  | byteWrite x b hi hx =>
    rw [State.readByte_writeByte]
    split
    · rename_i hxa
      exact Or.inr (Or.inl ⟨x, b, hi, hxa.symm⟩)
    · exact Or.inl rfl
  | _ => exact Or.inl (by simp)

/-! ### Operand registers -/

/-- What a read of an operand register gives depends on the operand registers only (R70). -/
theorem State.readReg_of_regs_eq {s t : State} {r : Reg} (hr : isOperandReg r = true) (h : t.regs = s.regs) :
    t.readReg r = s.readReg r := by
  cases r <;> simp [isOperandReg, State.readReg, h] at hr ⊢

/-- A write to one operand register leaves what every other register reads. -/
theorem readReg_of_writeReg_ne {s : State} {r r' : Reg} {d : U64} {q : OperandRegs} (hne : r ≠ r')
    (hw : writeReg s.regs d r' = .operand q) : (s.withRegs q).readReg r = s.readReg r := by
  cases r' <;> cases hw
  all_goals cases r <;> simp [State.readReg] at hne ⊢

/-- Truncation to `w` bits and zero-extension, in naturals. -/
theorem setWidth_setWidth_eq_ofNat_mod (w : Nat) (d : U64) :
    (d.setWidth w).setWidth 64 = BitVec.ofNat 64 (d.toNat % 2 ^ w) := by
  apply BitVec.eq_of_toNat_eq
  simp

/-- A write to an operand register gives it the value truncated to its width (R16). -/
theorem readReg_of_writeReg_same {s : State} {r : Reg} {d : U64} {q : OperandRegs}
    (hw : writeReg s.regs d r = .operand q) :
    (s.withRegs q).readReg r = BitVec.ofNat 64 (d.toNat % 2 ^ regWidth r) := by
  rw [← setWidth_setWidth_eq_ofNat_mod]
  cases r <;> cases hw
  all_goals simp [State.readReg, regWidth]

theorem writeReg_of_isOperandReg {r : Reg} (hr : isOperandReg r = true) (p : OperandRegs) (d : U64) :
    ∃ q, writeReg p d r = .operand q := by
  cases r <;> simp [isOperandReg, writeReg] at hr ⊢

/-- After a write to an operand register a read of it gives the value, truncated and zero-extended. -/
theorem exec_hwr_readReg {r : Reg} (hr : isOperandReg r = true) {d : U64} {s t : State}
    (h : exec (.hwr (regNumberOf r) d) s = .next t) : t.readReg r = BitVec.ofNat 64 (d.toNat % 2 ^ regWidth r) := by
  obtain ⟨q, hq⟩ := writeReg_of_isOperandReg hr s.regs d
  rw [exec_hwr_of_operand (by simpa using hq)] at h
  cases h
  exact readReg_of_writeReg_same hq

/-- No other instruction changes what an operand register reads (10_state.md R15). -/
theorem exec_readReg {i : Instr} {s t : State} {r : Reg} (hr : isOperandReg r = true)
    (hi : ∀ d, i ≠ .hwr (regNumberOf r) d) (h : exec i s = .next t) : t.readReg r = s.readReg r := by
  rcases exec_regs h with hregs | ⟨r', d, q, rfl, hw, rfl⟩
  · exact State.readReg_of_regs_eq hr hregs
  · exact readReg_of_writeReg_ne (by rintro rfl; exact hi d rfl) hw

/-! ### Runs -/

theorem runInstrs_cons {i : Instr} {p : List Instr} {s t : State} (h : runInstrs (i :: p) s = .next t) :
    ∃ u, exec i s = .next u ∧ runInstrs p u = .next t := by
  rw [runInstrs] at h
  split at h
  · rename_i u hu
    exact ⟨u, hu, h⟩
  · cases h
  · cases h

theorem neverAlong_of_forall_mem {P : Instr → State → Prop} {p : List Instr} (h : ∀ i ∈ p, ∀ s, ¬ P i s) (s : State) :
    NeverAlong P p s := by
  induction p generalizing s with
  | nil => trivial
  | cons i p ih => exact ⟨h i (List.mem_cons_self ..) s, fun t _ => ih (fun j hj => h j (List.mem_cons_of_mem i hj)) t⟩

/-- What every instruction keeps where `P` does not hold, a run keeps along which `P` never holds. -/
theorem runInstrs_keeps {P : Instr → State → Prop} {I : State → Prop}
    (hstep : ∀ {i s t}, ¬ P i s → exec i s = .next t → I s → I t) {p : List Instr} {s t : State}
    (hp : NeverAlong P p s) (h : runInstrs p s = .next t) (hs : I s) : I t := by
  induction p generalizing s with
  | nil =>
    cases h
    exact hs
  | cons i p ih =>
    obtain ⟨hi, hrest⟩ := hp
    obtain ⟨u, hu, hrun⟩ := runInstrs_cons h
    exact ih (hrest u hu) hrun (hstep hi hu hs)

/-! ### The round trip -/

/-- A run that never writes an operand register keeps what it reads. -/
theorem runInstrs_readReg {r : Reg} (hr : isOperandReg r = true) {p : List Instr} {s t : State}
    (hp : ∀ d, Instr.hwr (regNumberOf r) d ∉ p) (h : runInstrs p s = .next t) : t.readReg r = s.readReg r := by
  have hnever : NeverAlong (fun i _ => ∃ d, i = .hwr (regNumberOf r) d) p s := by
    refine neverAlong_of_forall_mem ?_ s
    rintro i hi - ⟨d, rfl⟩
    exact hp d hi
  refine runInstrs_keeps (I := fun v => v.readReg r = s.readReg r) (fun hi hex hv => ?_) hnever h rfl
  rw [exec_readReg hr (not_exists.1 hi) hex, hv]

theorem runInstrs_dmemSize {p : List Instr} {s t : State} (h : runInstrs p s = .next t) : t.dmemSize = s.dmemSize :=
  runInstrs_keeps (P := fun _ _ => False) (I := fun v => v.dmemSize = s.dmemSize)
    (fun _ hex hv => (exec_dmemSize hex).trans hv) (neverAlong_of_forall_mem (fun _ _ _ => id) s) h rfl

/-- The instruction `i`, run in the state `v`, writes DMEM at `a`: the two ways that R39 and R75 name. -/
def WritesByte (a : U32) (i : Instr) (v : State) : Prop :=
  (∃ b, i = .hwrb a b) ∨
    (issuedCommand i = some .bip32h ∧ v.errs.err = false ∧ v.bip32InDmem = true ∧ v.regs.dst.toNat ≤ a.toNat ∧
      a.toNat < v.regs.dst.toNat + 64)

theorem exec_readByte_of_not_writesByte {a : U32} {i : Instr} {s t : State} (hi : ¬ WritesByte a i s)
    (h : exec i s = .next t) : t.readByte a.toNat = s.readByte a.toNat := by
  rcases exec_readByte h a.toNat with hkept | ⟨x, b, rfl, hx⟩ | hbip
  · exact hkept
  · exact absurd (Or.inl ⟨b, by rw [BitVec.eq_of_toNat_eq hx]⟩) hi
  · exact absurd (Or.inr hbip) hi

/-- A run along which nothing writes a byte of DMEM keeps it. -/
theorem runInstrs_readByte {a : U32} {p : List Instr} {s t : State} (hp : NeverAlong (WritesByte a) p s)
    (h : runInstrs p s = .next t) : t.readByte a.toNat = s.readByte a.toNat :=
  runInstrs_keeps (I := fun v => v.readByte a.toNat = s.readByte a.toNat)
    (fun hi hex hv => (exec_readByte_of_not_writesByte hi hex).trans hv) hp h rfl

/-- Settles O39: the write gives the register or the byte its value, the run keeps it, and the read answers it. -/
theorem portRoundTrip : Obligations.PortRoundTrip := by
  unfold Obligations.PortRoundTrip
  refine ⟨fun r d p s t hr hp h => ?_, fun a b p s t u ha hw hp h => ?_⟩
  · obtain ⟨v, hv, hrun⟩ := runInstrs_cons h
    rw [exec_hrd_regNumberOf, runInstrs_readReg hr hp hrun, exec_hwr_readReg hr hv, State.respond]
  · rw [exec_hwrb_of_lt ha] at hw
    cases hw
    have hsize : u.dmemSize = s.dmemSize := by rw [runInstrs_dmemSize h, State.writeByte_dmemSize]
    have hbyte : u.readByte a.toNat = b := by
      rw [runInstrs_readByte hp h, State.readByte_writeByte, if_pos rfl]
    rw [exec_hrdb_of_lt (by rwa [hsize]), hbyte, State.respond]

end Sys2Proof.Machine
end

section
/-! The rotations and the byte order of assembled words (41_primitives.md R77, R78, R82, R83), bit by bit. -/

namespace Sys2Proof.Machine

/-! ### Rotations -/

/-- Two shifts in opposite directions by amounts that add up to the width move bit `i - r`, modulo the width, to bit `i`. -/
theorem getLsbD_shiftLeft_or_ushiftRight {w r i : Nat} (x : BitVec w) (hr : r ≤ w) (hi : i < w) :
    (x <<< r ||| x >>> (w - r)).getLsbD i = x.getLsbD ((i + w - r) % w) := by
  rw [BitVec.getLsbD_or, BitVec.getLsbD_shiftLeft, BitVec.getLsbD_ushiftRight]
  by_cases hlow : i < r
  · have hsource : (i + w - r) % w = w - r + i := by
      rw [Nat.mod_eq_of_lt (by omega)]
      omega
    simp [hlow, hsource]
  · have hsource : (i + w - r) % w = i - r := by
      rw [show i + w - r = i - r + w by omega, Nat.add_mod_right, Nat.mod_eq_of_lt (by omega)]
    have hout : x.getLsbD (w - r + i) = false := BitVec.getLsbD_of_ge x _ (by omega)
    simp [hlow, hsource, hout, hi]

theorem getLsbD_rotl32 (x : U32) {r i : Nat} (hr : r ≤ 32) (hi : i < 32) :
    (rotl32 x r).getLsbD i = x.getLsbD ((i + 32 - r) % 32) :=
  getLsbD_shiftLeft_or_ushiftRight x hr hi

theorem getLsbD_rotl64 (x : U64) {r i : Nat} (hr : r ≤ 64) (hi : i < 64) :
    (rotl64 x r).getLsbD i = x.getLsbD ((i + 64 - r) % 64) :=
  getLsbD_shiftLeft_or_ushiftRight x hr hi

/-- Settles O41: both rotations are the two shifts by definition, and their bits are those of
`getLsbD_shiftLeft_or_ushiftRight`. -/
theorem rotationBits : Obligations.RotationBits := by
  unfold Obligations.RotationBits
  exact ⟨fun x r i _ hr hi => ⟨rfl, getLsbD_rotl32 x (by omega) hi⟩,
    fun x r i _ hr hi => ⟨rfl, getLsbD_rotl64 x (by omega) hi⟩⟩

/-! ### Byte order -/

/-- Bit `i` of a word assembled from byte position `j0` on is bit `i % 8` of the byte at position `i / 8`. -/
theorem getLsbD_leFrom (s : List Byte) (j0 : Nat) {i : Nat} (hi : i < 64) :
    (leFrom j0 s).getLsbD i = (decide (8 * j0 ≤ i) && (s.getD (i / 8 - j0) 0).getLsbD (i % 8)) := by
  induction s generalizing j0 with
  | nil => simp [leFrom]
  | cons b s ih =>
    rw [leFrom, BitVec.getLsbD_or, BitVec.getLsbD_shiftLeft, BitVec.getLsbD_setWidth, ih]
    rcases Nat.lt_trichotomy (i / 8) j0 with hbelow | rfl | habove
    · have hlt : i < 8 * j0 := by omega
      simp [hlt, show ¬ 8 * (j0 + 1) ≤ i by omega]
    · have hbit : i - 8 * (i / 8) = i % 8 := by omega
      simp [hi, hbit, show ¬ i < 8 * (i / 8) by omega, show ¬ 8 * (i / 8 + 1) ≤ i by omega,
        show 8 * (i / 8) ≤ i by omega, show i % 8 < 64 by omega]
    · have hout : b.getLsbD (i - 8 * j0) = false := BitVec.getLsbD_of_ge b _ (by omega)
      have hnext : i / 8 - j0 = i / 8 - (j0 + 1) + 1 := by omega
      simp [hout, hnext, show 8 * (j0 + 1) ≤ i by omega, show 8 * j0 ≤ i by omega]

/-- Byte `j` of the little-endian word of at most 8 bytes is byte `j` of the sequence, 0 past its end (R82). -/
theorem extractLsb'_leBytes {s : List Byte} (hs : s.length ≤ 8) (j : Nat) :
    (leBytes s).extractLsb' (8 * j) 8 = s.getD j 0 := by
  refine BitVec.eq_of_getLsbD_eq fun i hi => ?_
  rw [BitVec.getLsbD_extractLsb']
  by_cases hj : j < 8
  · have hbyte : (8 * j + i) / 8 = j := by omega
    have hbit : (8 * j + i) % 8 = i := by omega
    rw [leBytes, getLsbD_leFrom s 0 (by omega), Nat.sub_zero, hbyte, hbit]
    simp [hi]
  · rw [BitVec.getLsbD_of_ge (leBytes s) _ (by omega), List.getD_eq_default s 0 (by omega)]
    simp

/-- A byte shifted inside a u32 loses no bit, so it may be widened to u64 before the shift. -/
theorem setWidth_byte_shiftLeft (b : Byte) {n : Nat} (hn : n ≤ 24) :
    (b.setWidth 32 <<< n).setWidth 64 = b.setWidth 64 <<< n := by
  refine BitVec.eq_of_getLsbD_eq fun i hi => ?_
  simp only [BitVec.getLsbD_setWidth, BitVec.getLsbD_shiftLeft]
  by_cases hlow : i < 32
  · simp [hlow, hi, show i - n < 32 by omega, show i - n < 64 by omega]
  · have hout : b.getLsbD (i - n) = false := BitVec.getLsbD_of_ge b _ (by omega)
    simp [hlow, hout]

/-- `LE32` is the little-endian word of its four bytes (R82). -/
theorem setWidth_le32 (b0 b1 b2 b3 : Byte) : (le32 b0 b1 b2 b3).setWidth 64 = leBytes [b0, b1, b2, b3] := by
  simp [le32, leBytes, leFrom, BitVec.setWidth_or, setWidth_byte_shiftLeft, BitVec.or_assoc]

/-- The big-endian bytes of a word, last first, are its little-endian bytes (R83). -/
theorem reverse_be32Bytes (w : U32) : (be32Bytes w).toList.reverse = wordBytes32 w := rfl

/-- Settles O43: `extractLsb'_leBytes`, inside the sequence and past its end, with `setWidth_le32` and `reverse_be32Bytes`. -/
theorem byteOrderOfAssembledWords : Obligations.ByteOrderOfAssembledWords := by
  unfold Obligations.ByteOrderOfAssembledWords
  refine ⟨fun s j hs => ?_, setWidth_le32, reverse_be32Bytes⟩
  rw [extractLsb'_leBytes hs]
  split
  · exact List.getD_eq_getElem s 0 ‹_›
  · exact List.getD_eq_default s 0 (by omega)

end Sys2Proof.Machine
end

section
/-! The bytes absorbed by the SipHash context (42_siphash_stream.md R90 to R92): from a group boundary, the context after a
sequence of bytes is the closed form of R97, and a SIPWORD absorbs the bytes of its word. -/

namespace Sys2Proof.Machine

/-! ### Little-endian words -/

theorem leFrom_append_singleton (j : Nat) (m : List Byte) (b : Byte) :
    leFrom j (m ++ [b]) = leFrom j m ||| b.setWidth 64 <<< (8 * (j + m.length)) := by
  induction m generalizing j with
  | nil => simp [leFrom]
  | cons c m ih =>
    have hlen : j + 1 + m.length = j + (c :: m).length := by
      rw [List.length_cons]
      omega
    rw [List.cons_append, leFrom, leFrom, ih, hlen, BitVec.or_assoc]

theorem leBytes_append_singleton (m : List Byte) (b : Byte) :
    leBytes (m ++ [b]) = leBytes m ||| b.setWidth 64 <<< (8 * m.length) := by
  rw [leBytes, leFrom_append_singleton, Nat.zero_add, leBytes]

@[simp] theorem wordBytes_length (w : U64) : (wordBytes w).length = 8 := by
  simp [wordBytes]

/-- The little-endian word of the bytes of a word is that word (R94). -/
@[simp] theorem leBytes_wordBytes (w : U64) : leBytes (wordBytes w) = w := by
  refine BitVec.eq_of_getLsbD_eq fun i hi => ?_
  have hbyte : (wordBytes w).getD (i / 8) 0 = w.extractLsb' (8 * (i / 8)) 8 := by
    rw [List.getD_eq_getElem _ _ (by rw [wordBytes_length]; omega)]
    simp [wordBytes]
  have hbit : 8 * (i / 8) + i % 8 = i := Nat.div_add_mod i 8
  rw [leBytes, getLsbD_leFrom _ 0 hi, Nat.sub_zero, hbyte, BitVec.getLsbD_extractLsb', hbit]
  simp [Nat.mod_lt]

/-! ### Groups of eight bytes -/

theorem lastGroup_length (m : List Byte) : (lastGroup m).length = m.length % 8 := by
  rw [lastGroup, List.length_drop]
  omega

theorem lastGroup_of_boundary {m : List Byte} (h : m.length % 8 = 0) : lastGroup m = [] := by
  rw [← List.length_eq_zero_iff, lastGroup_length, h]

/-- A byte that fills no group lengthens the last one. -/
theorem lastGroup_append_singleton {m : List Byte} (h : (m.length + 1) % 8 ≠ 0) (b : Byte) :
    lastGroup (m ++ [b]) = lastGroup m ++ [b] := by
  have hgroups : (m ++ [b]).length / 8 = m.length / 8 := by
    rw [List.length_append, List.length_singleton]
    omega
  rw [lastGroup, hgroups, List.drop_append_of_le_length (by omega), lastGroup]

/-- The full groups of `m` stay where they are when bytes follow. -/
theorem foldl_slice_append (v : SipState) (m n : List Byte) :
    (List.range (m.length / 8)).foldl (fun v j => sipCompress v (leBytes (slice (m ++ n) (8 * j) 8))) v =
      compressGroups v m := by
  refine List.foldl_ext _ _ _ fun v j hj => ?_
  have hfull : 8 * j + 8 ≤ m.length := by
    have := List.mem_range.1 hj
    omega
  rw [slice, List.drop_append_of_le_length (by omega), List.take_append_of_le_length (by rw [List.length_drop]; omega), slice]

/-- A byte that fills no group compresses nothing. -/
theorem compressGroups_append_singleton {m : List Byte} (h : (m.length + 1) % 8 ≠ 0) (v : SipState) (b : Byte) :
    compressGroups v (m ++ [b]) = compressGroups v m := by
  have hgroups : (m ++ [b]).length / 8 = m.length / 8 := by
    rw [List.length_append, List.length_singleton]
    omega
  rw [← foldl_slice_append v m [b], compressGroups, hgroups]

/-- A byte that fills the last group compresses it. -/
theorem compressGroups_append_singleton_of_full {m : List Byte} (h : (m.length + 1) % 8 = 0) (v : SipState) (b : Byte) :
    compressGroups v (m ++ [b]) = sipCompress (compressGroups v m) (leBytes (lastGroup m ++ [b])) := by
  have hgroups : (m ++ [b]).length / 8 = m.length / 8 + 1 := by
    rw [List.length_append, List.length_singleton]
    omega
  have hlast : slice (m ++ [b]) (8 * (m.length / 8)) 8 = lastGroup m ++ [b] := by
    rw [slice, List.drop_append_of_le_length (by omega), ← lastGroup]
    refine List.take_of_length_le ?_
    rw [List.length_append, lastGroup_length, List.length_singleton]
    omega
  rw [compressGroups, hgroups, List.range_succ, List.foldl_append, foldl_slice_append, List.foldl_cons, List.foldl_nil, hlast]

/-- One group of eight bytes is compressed as their word. -/
theorem compressGroups_of_length_eight {m : List Byte} (h : m.length = 8) (v : SipState) :
    compressGroups v m = sipCompress v (leBytes m) := by
  have hslice : slice m 0 8 = m := List.take_of_length_le (by rw [List.drop_zero, h])
  simp [compressGroups, h, hslice]

/-! ### Absorbing bytes -/

/-- The context a group boundary `c` becomes when `m` is absorbed, by the indexed closed form of R97. -/
def SipCtx.afterBytes (c : SipCtx) (m : List Byte) : SipCtx :=
  { c with v := compressGroups c.v m, count := c.count + BitVec.ofNat 64 m.length, tail := leBytes (lastGroup m) }

/-- The pending bytes are counted modulo 8, which the wrap of `count` at 2^64 does not disturb. -/
theorem toNat_add_ofNat_mod_eight (x : U64) (n : Nat) : (x + BitVec.ofNat 64 n).toNat % 8 = (x.toNat + n) % 8 := by
  rw [BitVec.toNat_add, BitVec.toNat_ofNat]
  omega

theorem SipCtx.afterBytes_pending {c : SipCtx} (hp : c.pending = 0) (m : List Byte) :
    (c.afterBytes m).pending = m.length % 8 := by
  rw [SipCtx.pending] at hp
  rw [SipCtx.pending, SipCtx.afterBytes, toNat_add_ofNat_mod_eight]
  omega

/-- R91 on the closed form: the byte goes behind the last group, which is compressed once it is full. -/
theorem SipCtx.absorbByte_afterBytes {c : SipCtx} (hp : c.pending = 0) (m : List Byte) (b : Byte) :
    (c.afterBytes m).absorbByte b = c.afterBytes (m ++ [b]) := by
  have htail : (c.afterBytes m).tail ||| b.setWidth 64 <<< (8 * (c.afterBytes m).pending) =
      leBytes (lastGroup m ++ [b]) := by
    rw [afterBytes_pending hp, leBytes_append_singleton, lastGroup_length]
    rfl
  have hcount : (c.afterBytes m).count + 1 = c.count + BitVec.ofNat 64 (m.length + 1) := by
    rw [SipCtx.afterBytes, BitVec.ofNat_add, BitVec.add_assoc]
    rfl
  have hfull : (c.count + BitVec.ofNat 64 (m.length + 1)).toNat % 8 = (m.length + 1) % 8 := by
    rw [SipCtx.pending] at hp
    rw [toNat_add_ofNat_mod_eight]
    omega
  have hlen : (m ++ [b]).length = m.length + 1 := by simp
  simp only [SipCtx.absorbByte, htail, hcount, hfull]
  by_cases h : (m.length + 1) % 8 = 0
  · have hempty : lastGroup (m ++ [b]) = [] := lastGroup_of_boundary (by rw [hlen, h])
    rw [if_pos h, afterBytes, afterBytes, compressGroups_append_singleton_of_full h, hempty, hlen]
    rfl
  · rw [if_neg h, afterBytes, afterBytes, compressGroups_append_singleton h, lastGroup_append_singleton h, hlen]

@[simp] theorem SipCtx.absorbBytes_nil (c : SipCtx) : c.absorbBytes [] = c := rfl

theorem SipCtx.absorbBytes_append (c : SipCtx) (m n : List Byte) :
    c.absorbBytes (m ++ n) = (c.absorbBytes m).absorbBytes n :=
  List.foldl_append

/-- From a group boundary the byte loop of R92 leaves the closed form. -/
theorem SipCtx.absorbBytes_eq_afterBytes {c : SipCtx} (hp : c.pending = 0) (ht : c.tail = 0) (m : List Byte) :
    c.absorbBytes m = c.afterBytes m := by
  induction m using List.reverseRecOn with
  | nil => simp [afterBytes, compressGroups, lastGroup, leBytes, leFrom, ← ht]
  | append_singleton m b ih => rw [absorbBytes_append, ih, ← absorbByte_afterBytes hp]; rfl

@[simp] theorem SipCtx.absorbByte_valid (c : SipCtx) (b : Byte) : (c.absorbByte b).valid = c.valid := by
  simp only [absorbByte]
  split <;> rfl

@[simp] theorem SipCtx.absorbBytes_valid (c : SipCtx) (m : List Byte) : (c.absorbBytes m).valid = c.valid := by
  induction m generalizing c with
  | nil => rfl
  | cons b m ih => exact (ih (c.absorbByte b)).trans (absorbByte_valid c b)

/-- R94 for one word. -/
theorem SipCtx.absorbBytes_wordBytes {c : SipCtx} (hp : c.pending = 0) (ht : c.tail = 0) (w : U64) :
    c.absorbBytes (wordBytes w) = c.absorbWord w := by
  have hempty : lastGroup (wordBytes w) = [] := lastGroup_of_boundary (by simp)
  rw [absorbBytes_eq_afterBytes hp ht, afterBytes, compressGroups_of_length_eight (wordBytes_length w), leBytes_wordBytes,
    wordBytes_length, hempty, absorbWord, ht]
  rfl

theorem SipCtx.absorbWord_pending (c : SipCtx) (w : U64) : (c.absorbWord w).pending = c.pending := by
  rw [pending, absorbWord, pending]
  exact (toNat_add_ofNat_mod_eight c.count 8).trans (Nat.add_mod_right ..)

end Sys2Proof.Machine
end

section
/-! Streams (42_siphash_stream.md R88 to R97): what the streaming commands do when they succeed, that words, bytes and any split
of the bytes absorb alike (R94), and the closed form of a stream (R97). -/

namespace Sys2Proof.Machine

/-! ### The commands -/

/-- An instruction that issues a command runs it. -/
theorem exec_of_issuedCommand {i : Instr} {c : Command} (h : issuedCommand i = some c) (s : State) :
    exec i s = runCommand (commandWord c) (effectOf c) s := by
  rw [← execCommand_eq]
  cases i with
  | hwr n d =>
    rw [issuedCommand] at h
    split at h
    · next hn =>
      subst hn
      match hd : decodeCommand (d.setWidth 32) with
      | .error _ => simp [hd, Except.toOption] at h
      | .ok op =>
        obtain rfl : op = c := by simpa [hd, Except.toOption] using h
        rw [exec_hwr_of_command (c := d.setWidth 32) rfl]
        match he : s.errs.err with
        | true => rw [dispatchCommand_of_err he, execCommand_eq, runCommand_of_err he]
        | false => rw [dispatchCommand_of_legal he hd, exec_toInstr]
    · cases h
  | _ =>
    cases h
    all_goals rfl

theorem sipwordEffect_of_boundary {s : State} (hv : s.ctx.valid = true) (hp : s.ctx.pending = 0) :
    sipwordEffect s = .ok (s.withCtx (s.ctx.absorbWord s.regs.word)) := by
  simp [sipwordEffect, hv, hp]

theorem sipbytesEffect_of_range {s : State} (hv : s.ctx.valid = true)
    (hr : s.regs.src.toNat + s.regs.len.toNat ≤ s.dmemSize) :
    sipbytesEffect s = .ok (s.withCtx (s.ctx.absorbBytes (s.memRead s.regs.src.toNat s.regs.len.toNat))) := by
  simp [sipbytesEffect, hv, State.dataInDmem, State.inDmem, hr, State.dataBytes]

theorem sipfinalEffect_of_valid {s : State} (hv : s.ctx.valid = true) :
    sipfinalEffect s = .ok (s.withResult s.ctx.digest) := by
  simp [sipfinalEffect, hv]

theorem exec_sipinit {s : State} (he : s.errs.err = false) :
    exec .sipinit s = .next (s.withCtx (SipCtx.init s.regs.k0 s.regs.k1)) := by
  rw [exec_of_issuedCommand rfl, effectOf, runCommand_of_ok he (by rw [sipinitEffect])]

theorem exec_sipword {s : State} (he : s.errs.err = false) (hv : s.ctx.valid = true) (hp : s.ctx.pending = 0) :
    exec .sipword s = .next (s.withCtx (s.ctx.absorbWord s.regs.word)) := by
  rw [exec_of_issuedCommand rfl, effectOf, runCommand_of_ok he (sipwordEffect_of_boundary hv hp)]

theorem exec_sipbytes {s : State} (he : s.errs.err = false) (hv : s.ctx.valid = true)
    (hr : s.regs.src.toNat + s.regs.len.toNat ≤ s.dmemSize) :
    exec .sipbytes s = .next (s.withCtx (s.ctx.absorbBytes (s.memRead s.regs.src.toNat s.regs.len.toNat))) := by
  rw [exec_of_issuedCommand rfl, effectOf, runCommand_of_ok he (sipbytesEffect_of_range hv hr)]

theorem exec_sipfinal {s : State} (he : s.errs.err = false) (hv : s.ctx.valid = true) :
    exec .sipfinal s = .next (s.withResult s.ctx.digest) := by
  rw [exec_of_issuedCommand rfl, effectOf, runCommand_of_ok he (sipfinalEffect_of_valid hv)]

/-- Equal contexts give equal digests (R93). -/
theorem exec_sipfinal_of_ctx_eq {t u : State} (ht : t.errs.err = false) (hu : u.errs.err = false)
    (hv : t.ctx.valid = true) (hctx : u.ctx = t.ctx) :
    ∃ t' u', exec .sipfinal t = .next t' ∧ exec .sipfinal u = .next u' ∧ u'.result = t'.result := by
  refine ⟨_, _, exec_sipfinal ht hv, exec_sipfinal hu (by rw [hctx, hv]), ?_⟩
  rw [State.withResult_result, State.withResult_result, hctx]

/-! ### Runs that follow one given next state -/

theorem runInstrs_cons_of_exec {i : Instr} {s t : State} (h : exec i s = .next t) (p : List Instr) :
    runInstrs (i :: p) s = runInstrs p t := by
  rw [runInstrs, h]

theorem exec_hwrReg {r : Reg} {d : U64} {q : OperandRegs} {s : State} (h : writeReg s.regs d r = .operand q) :
    exec (hwrReg r d) s = .next (s.withRegs q) :=
  exec_hwr_of_operand (by rw [regOfNumber_regNumberOf, Option.map_some, h])

/-- WORD is loaded and absorbed. -/
theorem runInstrs_loadWord_sipword {s : State} (he : s.errs.err = false) (hv : s.ctx.valid = true) (hp : s.ctx.pending = 0)
    (w : U64) (p : List Instr) :
    runInstrs (hwrReg .word w :: .sipword :: p) s =
      runInstrs p ((s.withRegs { s.regs with word := w }).withCtx (s.ctx.absorbWord w)) := by
  have hload : exec (hwrReg .word w) s = .next (s.withRegs { s.regs with word := w }) := exec_hwrReg rfl
  have hword := exec_sipword (s := s.withRegs { s.regs with word := w }) he hv hp
  rw [runInstrs_cons_of_exec hload, runInstrs_cons_of_exec hword]
  simp

/-- A SIPWORD for each word absorbs the bytes of the words. -/
theorem runInstrs_sipwordRun {s : State} (ws : List U64) (he : s.errs.err = false) (hv : s.ctx.valid = true)
    (hp : s.ctx.pending = 0) (ht : s.ctx.tail = 0) :
    ∃ u, runInstrs (sipwordRun ws) s = .next u ∧ u.errs.err = false ∧ u.ctx = s.ctx.absorbBytes (ws.flatMap wordBytes) := by
  induction ws generalizing s with
  | nil => exact ⟨s, rfl, he, rfl⟩
  | cons w ws ih =>
    obtain ⟨u, hrun, herr, hctx⟩ := ih (s := (s.withRegs { s.regs with word := w }).withCtx (s.ctx.absorbWord w)) he hv
      (by rw [State.withCtx_ctx, SipCtx.absorbWord_pending, hp]) ht
    refine ⟨u, ?_, herr, ?_⟩
    · rw [sipwordRun, List.flatMap_cons, List.cons_append, List.cons_append, List.nil_append,
        runInstrs_loadWord_sipword he hv hp, ← hrun, sipwordRun]
    · rw [hctx, List.flatMap_cons, SipCtx.absorbBytes_append, SipCtx.absorbBytes_wordBytes hp ht, State.withCtx_ctx]

/-! ### Consecutive ranges of DMEM -/

theorem State.memRead_add (s : State) (a m n : Nat) : s.memRead a (m + n) = s.memRead a m ++ s.memRead (a + m) n := by
  simp [State.memRead, List.range_add, Nat.add_assoc]

/-- A range that ends by 2^32 starts at a 32-bit address, or is empty. -/
theorem State.memRead_mod_of_le (s : State) {a n : Nat} (h : a + n ≤ 2 ^ 32) :
    s.memRead (a % 2 ^ 32) n = s.memRead a n := by
  rcases Nat.eq_zero_or_pos n with rfl | hn
  · simp [State.memRead]
  · rw [Nat.mod_eq_of_lt (by omega)]

/-- SRC and LEN are loaded, and the range they name is absorbed. -/
theorem runInstrs_loadRange_sipbytes {s : State} (he : s.errs.err = false) (hv : s.ctx.valid = true) {a n : Nat}
    (hr : a + n ≤ s.dmemSize) (hsize : s.dmemSize ≤ 2 ^ 32) (hn : n < 2 ^ 32) (p : List Instr) :
    runInstrs (hwrReg .src (BitVec.ofNat 64 a) :: hwrReg .len (BitVec.ofNat 64 n) :: .sipbytes :: p) s =
      runInstrs p ((s.withRegs { s.regs with src := BitVec.ofNat 32 a, len := BitVec.ofNat 32 n }).withCtx
        (s.ctx.absorbBytes (s.memRead a n))) := by
  have hload : ∀ x : Nat, (BitVec.ofNat 64 x).setWidth 32 = BitVec.ofNat 32 x :=
    fun x => BitVec.setWidth_ofNat_of_le (by decide) x
  have hsrc : exec (hwrReg .src (BitVec.ofNat 64 a)) s =
      .next (s.withRegs { s.regs with src := BitVec.ofNat 32 a }) := exec_hwrReg (by rw [writeReg, hload])
  have hlen : exec (hwrReg .len (BitVec.ofNat 64 n)) (s.withRegs { s.regs with src := BitVec.ofNat 32 a }) =
      .next (s.withRegs { s.regs with src := BitVec.ofNat 32 a, len := BitVec.ofNat 32 n }) :=
    exec_hwrReg (by rw [writeReg, hload]; rfl)
  have hread : s.memRead (BitVec.ofNat 32 a).toNat (BitVec.ofNat 32 n).toNat = s.memRead a n := by
    rw [BitVec.toNat_ofNat, BitVec.toNat_ofNat, Nat.mod_eq_of_lt hn, s.memRead_mod_of_le (by omega)]
  have hin : (BitVec.ofNat 32 a).toNat + (BitVec.ofNat 32 n).toNat ≤ s.dmemSize := by
    rw [BitVec.toNat_ofNat, BitVec.toNat_ofNat]
    omega
  have hbytes := exec_sipbytes
    (s := s.withRegs { s.regs with src := BitVec.ofNat 32 a, len := BitVec.ofNat 32 n }) he hv hin
  rw [runInstrs_cons_of_exec hsrc, runInstrs_cons_of_exec hlen, runInstrs_cons_of_exec hbytes]
  simp only [State.withRegs_ctx, State.withRegs_regs, State.withRegs_memRead, hread]

/-- A SIPBYTES for each length absorbs the whole range. -/
theorem runInstrs_sipbytesRun {s : State} {a : Nat} (ns : List Nat) (he : s.errs.err = false) (hv : s.ctx.valid = true)
    (hr : a + ns.sum ≤ s.dmemSize) (hsize : s.dmemSize ≤ 2 ^ 32) (hn : ns.sum < 2 ^ 32) :
    ∃ v, runInstrs (sipbytesRun a ns) s = .next v ∧ v.ctx = s.ctx.absorbBytes (s.memRead a ns.sum) := by
  induction ns generalizing s a with
  | nil => exact ⟨s, rfl, rfl⟩
  | cons n ns ih =>
    rw [List.sum_cons] at hr hn
    obtain ⟨v, hrun, hctx⟩ := ih (a := a + n)
      (s := (s.withRegs { s.regs with src := BitVec.ofNat 32 a, len := BitVec.ofNat 32 n }).withCtx
        (s.ctx.absorbBytes (s.memRead a n)))
      he (by simpa using hv) (by rw [State.withCtx_dmemSize, State.withRegs_dmemSize]; omega) hsize (by omega)
    refine ⟨v, ?_, ?_⟩
    · rw [sipbytesRun, List.cons_append, List.cons_append, List.cons_append, List.nil_append,
        runInstrs_loadRange_sipbytes he hv (by omega) hsize (by omega), hrun]
    · rw [hctx, List.sum_cons, s.memRead_add, SipCtx.absorbBytes_append]
      simp

/-- At a group boundary the invariant of R28 leaves the tail empty. -/
theorem State.CtxInv.tail_eq_zero {s : State} (h : s.CtxInv) (hp : s.ctx.count.toNat % 8 = 0) : s.ctx.tail = 0 := by
  rw [State.CtxInv, hp] at h
  exact BitVec.eq_of_toNat_eq (Nat.lt_one_iff.1 h)

/-- Settles O52: each of the three paths absorbs the bytes of the operand. -/
theorem bytesAndWordsAbsorbAlike : Obligations.BytesAndWordsAbsorbAlike := by
  unfold Obligations.BytesAndWordsAbsorbAlike
  rintro s ws ns ⟨-, hsize⟩ hinv he hv hp hr hbytes hsum
  have hbytesrun := exec_sipbytes he hv hr
  obtain ⟨u, hu, huerr, huctx⟩ := runInstrs_sipwordRun ws he hv hp (hinv.tail_eq_zero hp)
  obtain ⟨v, hsplit, hvctx⟩ := runInstrs_sipbytesRun ns he hv (by rwa [hsum]) hsize (by rw [hsum]; exact s.regs.len.isLt)
  rw [← hbytes] at huctx
  rw [hsum] at hvctx
  obtain ⟨t', u', ht', hu', hres⟩ := exec_sipfinal_of_ctx_eq (u := u)
    (t := s.withCtx (s.ctx.absorbBytes (s.memRead s.regs.src.toNat s.regs.len.toNat))) he huerr (by simpa using hv) huctx
  exact ⟨_, u, v, t', u', hbytesrun, hu, hsplit, huctx, hvctx, ht', hu', hres⟩

/-! ### What one instruction adds to the stream -/

/-- An instruction that issues no command leaves the context. -/
theorem exec_ctx_of_no_command {i : Instr} {s t : State} (hi : issuedCommand i = none) (h : exec i s = .next t) :
    t.ctx = s.ctx := by
  cases exec_cases h with
  | completed c hc =>
    rw [hi] at hc
    cases hc
  | _ => simp

theorem contributed_of_err {s : State} (he : s.errs.err = true) (i : Instr) : contributed i s = [] :=
  if_pos (Or.inl he)

theorem contributed_of_not_absorbing {i : Instr} (hw : issuedCommand i ≠ some .sipword)
    (hb : issuedCommand i ≠ some .sipbytes) (s : State) : contributed i s = [] := by
  rw [contributed]
  split
  · rfl
  · split
    · next h => exact absurd h hw
    · next h => exact absurd h hb
    · rfl

theorem contributed_of_sipword {i : Instr} (hi : issuedCommand i = some .sipword) (s : State) :
    contributed i s =
      if s.errs.err = false ∧ s.ctx.valid = true ∧ s.ctx.pending = 0 then wordBytes s.regs.word else [] := by
  cases he : s.errs.err <;> cases hv : s.ctx.valid <;> simp [contributed, hi, he, hv, SipCtx.pending]

theorem contributed_of_sipbytes {i : Instr} (hi : issuedCommand i = some .sipbytes) (s : State) :
    contributed i s =
      if s.errs.err = false ∧ s.ctx.valid = true ∧ s.regs.src.toNat + s.regs.len.toNat ≤ s.dmemSize
      then s.memRead s.regs.src.toNat s.regs.len.toNat else [] := by
  cases he : s.errs.err <;> cases hv : s.ctx.valid <;> simp [contributed, hi, he, hv]

/-- A command that captures an error contributes nothing (R97). -/
theorem contributed_of_error {i : Instr} {c : Command} {s : State} {e : Cause} (hi : issuedCommand i = some c)
    (h : effectOf c s = .error e) : contributed i s = [] := by
  cases c with
  | sipword =>
    rw [contributed_of_sipword hi]
    refine if_neg fun ⟨_, hv, hp⟩ => ?_
    rw [effectOf, sipwordEffect_of_boundary hv hp] at h
    cases h
  | sipbytes =>
    rw [contributed_of_sipbytes hi]
    refine if_neg fun ⟨_, hv, hr⟩ => ?_
    rw [effectOf, sipbytesEffect_of_range hv hr] at h
    cases h
  | _ => exact contributed_of_not_absorbing (by simp [hi]) (by simp [hi]) s

/-- A command that completes, but SIPINIT, absorbs what it contributes. -/
theorem effectOf_ctx_eq_absorbBytes {i : Instr} {c : Command} {s t : State} (hi : issuedCommand i = some c)
    (he : s.errs.err = false) (hc : c ≠ .sipinit) (htail : s.ctx.pending = 0 → s.ctx.tail = 0)
    (h : effectOf c s = .ok t) : t.ctx = s.ctx.absorbBytes (contributed i s) := by
  cases c with
  | sipinit => exact absurd rfl hc
  | sipword =>
    obtain ⟨hv, hp, rfl⟩ := sipwordEffect_cases h
    rw [contributed_of_sipword hi, if_pos ⟨he, hv, hp⟩, SipCtx.absorbBytes_wordBytes hp (htail hp), State.withCtx_ctx]
  | sipbytes =>
    obtain ⟨hv, hin, rfl⟩ := sipbytesEffect_cases h
    have hr : s.regs.src.toNat + s.regs.len.toNat ≤ s.dmemSize := of_decide_eq_true hin
    rw [contributed_of_sipbytes hi, if_pos ⟨he, hv, hr⟩, State.withCtx_ctx, State.dataBytes]
  | _ =>
    have hctx : t.ctx = s.ctx := by simpa using effectOf_ctx h
    rw [contributed_of_not_absorbing (by simp [hi]) (by simp [hi]), hctx, SipCtx.absorbBytes_nil]

/-- Every instruction but a SIPINIT absorbs what it contributes. -/
theorem exec_ctx_eq_absorbBytes {i : Instr} {s t : State} (hi : issuedCommand i ≠ some .sipinit)
    (htail : s.ctx.pending = 0 → s.ctx.tail = 0) (h : exec i s = .next t) :
    t.ctx = s.ctx.absorbBytes (contributed i s) := by
  match hc : issuedCommand i with
  | none =>
    rw [exec_ctx_of_no_command hc h, contributed_of_not_absorbing (by simp [hc]) (by simp [hc]), SipCtx.absorbBytes_nil]
  | some c =>
    rw [exec_of_issuedCommand hc] at h
    rcases runCommand_cases h with ⟨he, rfl⟩ | ⟨he, hok⟩ | ⟨e, -, herror, rfl⟩
    · rw [contributed_of_err he, SipCtx.absorbBytes_nil]
    · exact effectOf_ctx_eq_absorbBytes hc he (by rintro rfl; exact hi hc) htail hok
    · rw [contributed_of_error hc herror, SipCtx.absorbBytes_nil, State.raiseError_ctx]

/-! ### The closed form of a stream -/

theorem SipCtx.init_absorbBytes (k0 k1 : U64) (m : List Byte) :
    (SipCtx.init k0 k1).absorbBytes m = (SipCtx.init k0 k1).afterBytes m :=
  absorbBytes_eq_afterBytes rfl rfl m

/-- A run without SIPINIT extends the stream by what is absorbed along it. -/
theorem runInstrs_ctx_eq_absorbBytes {k0 k1 : U64} {p : List Instr} {m : List Byte} {s u : State}
    (hp : ∀ i ∈ p, issuedCommand i ≠ some .sipinit) (hs : s.ctx = (SipCtx.init k0 k1).absorbBytes m)
    (h : runInstrs p s = .next u) : u.ctx = (SipCtx.init k0 k1).absorbBytes (m ++ absorbedAlong p s) := by
  induction p generalizing s m with
  | nil =>
    cases h
    rw [absorbedAlong, List.append_nil, hs]
  | cons i p ih =>
    obtain ⟨t, ht, hrun⟩ := runInstrs_cons h
    have htail : s.ctx.pending = 0 → s.ctx.tail = 0 := by
      rw [hs, SipCtx.init_absorbBytes, SipCtx.afterBytes_pending rfl]
      intro hm
      rw [SipCtx.afterBytes, lastGroup_of_boundary hm]
      rfl
    have hstep : t.ctx = (SipCtx.init k0 k1).absorbBytes (m ++ contributed i s) := by
      rw [exec_ctx_eq_absorbBytes (hp i (List.mem_cons_self ..)) htail ht, hs, SipCtx.absorbBytes_append]
    rw [ih (fun j hj => hp j (List.mem_cons_of_mem i hj)) hstep hrun, absorbedAlong, ht, List.append_assoc]

/-- The length byte keeps `count` modulo 256 only (R93). -/
theorem ofNat_shiftLeft_56 (n : Nat) : BitVec.ofNat 64 n <<< 56 = BitVec.ofNat 64 (n % 256) <<< 56 := by
  apply BitVec.eq_of_toNat_eq
  simp only [BitVec.toNat_shiftLeft, BitVec.toNat_ofNat, Nat.shiftLeft_eq]
  omega

/-- R97: the digest of a fresh context that has absorbed `m`. -/
theorem SipCtx.digest_init_absorbBytes (k0 k1 : U64) (m : List Byte) :
    ((SipCtx.init k0 k1).absorbBytes m).digest = sipHash24 k0 k1 m := by
  have hcount : (SipCtx.init k0 k1).count + BitVec.ofNat 64 m.length = BitVec.ofNat 64 m.length := BitVec.zero_add _
  rw [init_absorbBytes, digest, afterBytes, sipHash24, hcount, ofNat_shiftLeft_56, init]

/-- Settles O53: the context is that of the bytes absorbed on the way, and its digest is the closed form. -/
theorem streamDigestIsSipHash24 : Obligations.StreamDigestIsSipHash24 := by
  unfold Obligations.StreamDigestIsSipHash24
  intro s t u p he ht hp hrun hu
  rw [exec_sipinit he] at ht
  have hctx : t.ctx = (SipCtx.init s.regs.k0 s.regs.k1).absorbBytes [] := by
    rw [← Host.Outcome.next.inj ht, State.withCtx_ctx, SipCtx.absorbBytes_nil]
  have huctx := runInstrs_ctx_eq_absorbBytes hp hctx hrun
  have hvalid : u.ctx.valid = true := by
    rw [huctx, SipCtx.absorbBytes_valid]
    rfl
  have hdigest : u.ctx.digest = sipHash24 s.regs.k0 s.regs.k1 (absorbedAlong p t) := by
    rw [huctx, SipCtx.digest_init_absorbBytes, List.nil_append]
  rw [exec_sipfinal hu hvalid, hdigest, State.withResult]

end Sys2Proof.Machine
end

section
/-! The fixed-256 commands (43_siphash_fixed256.md R98 to R102): what SIP256 and SIP256X read and write, the context that the
four limbs leave when they are streamed, and the two commands as the digests of that stream. -/

namespace Sys2Proof.Machine

/-! ### The commands -/

/-- A command whose effect is to put a function of the operand registers in RESULT. -/
theorem runCommand_of_digest {effect : State → Except Cause State} {f : OperandRegs → U64}
    (h : ∀ s, effect s = .ok (s.withResult (f s.regs))) (c : U32) (s : State) :
    runCommand c effect s = .next (if s.errs.err then s else s.withResult (f s.regs)) := by
  cases he : s.errs.err with
  | true => rw [runCommand_of_err he, if_pos rfl]
  | false => rw [runCommand_of_ok he (h s), if_neg Bool.false_ne_true]

theorem exec_sip256_eq (s : State) :
    exec .sip256 s = .next (if s.errs.err then s else s.withResult (sip256Digest s.regs)) := by
  rw [exec_of_issuedCommand rfl, effectOf, runCommand_of_digest fun s => by rw [sip256Effect]]

theorem exec_sip256x_eq (s : State) :
    exec .sip256x s = .next (if s.errs.err then s else s.withResult (sip256xDigest s.regs)) := by
  rw [exec_of_issuedCommand rfl, effectOf, runCommand_of_digest fun s => by rw [sip256xEffect]]

theorem exec_sip256 {s : State} (he : s.errs.err = false) :
    exec .sip256 s = .next (s.withResult (sip256Digest s.regs)) := by
  rw [exec_sip256_eq, he, if_neg Bool.false_ne_true]

theorem exec_sip256x {s : State} (he : s.errs.err = false) :
    exec .sip256x s = .next (s.withResult (sip256xDigest s.regs)) := by
  rw [exec_sip256x_eq, he, if_neg Bool.false_ne_true]

/-- R100: what SIP256 and SIP256X do is fixed by ERR and the operand registers, and RESULT is all they write. -/
theorem exec_of_mem_fixed {i : Instr} (hi : i ∈ [Instr.sip256, Instr.sip256x]) :
    ∃ f : OperandRegs → U64, ∀ s : State, exec i s = .next (if s.errs.err then s else s.withResult (f s.regs)) := by
  simp only [List.mem_cons, List.not_mem_nil, or_false] at hi
  rcases hi with rfl | rfl
  · exact ⟨sip256Digest, exec_sip256_eq⟩
  · exact ⟨sip256xDigest, exec_sip256x_eq⟩

/-- Settles O55: the two runs differ in the context only, which the command's next state passes on. -/
theorem fixedVariantsIgnoreTheContext : Obligations.FixedVariantsIgnoreTheContext := by
  unfold Obligations.FixedVariantsIgnoreTheContext
  intro s c i hi
  obtain ⟨f, hf⟩ := exec_of_mem_fixed hi
  refine ⟨_, _, hf s, hf (s.withCtx c), ?_⟩
  rw [State.withCtx_errs, State.withCtx_regs]
  split <;> simp

/-! ### The context of the streamed limbs -/

/-- R94 for a list of words. -/
theorem SipCtx.absorbBytes_flatMap_wordBytes {c : SipCtx} (hp : c.pending = 0) (ht : c.tail = 0) (ws : List U64) :
    c.absorbBytes (ws.flatMap wordBytes) = ws.foldl absorbWord c := by
  induction ws generalizing c with
  | nil => rfl
  | cons w ws ih =>
    rw [List.flatMap_cons, absorbBytes_append, absorbBytes_wordBytes hp ht, List.foldl_cons,
      ih (c := c.absorbWord w) (by rw [absorbWord_pending, hp]) ht]

/-- The context that SIPINIT and the SIPWORDs of the four limbs leave (R101). -/
def SipCtx.ofLimbs (r : OperandRegs) : SipCtx :=
  { v := sipLimbs r, count := 32, tail := 0, valid := true }

theorem SipCtx.ofLimbs_pending (r : OperandRegs) : (ofLimbs r).pending = 0 := by
  have hcount : (32 : U64).toNat % 8 = 0 := by decide
  rw [pending, ofLimbs, hcount]

theorem SipCtx.foldl_absorbWord_limbs (r : OperandRegs) :
    [r.val0, r.val1, r.val2, r.val3].foldl absorbWord (init r.k0 r.k1) = ofLimbs r := by
  simp [absorbWord, init, ofLimbs, sipLimbs]

/-- R101: the final word of the stream is the constant of SIP256. -/
theorem SipCtx.digest_ofLimbs (r : OperandRegs) : (ofLimbs r).digest = sip256Digest r := by
  have hfinal : (0 : U64) ||| (32 : U64) <<< 56 = 0x2000000000000000 := by decide
  simp only [digest, ofLimbs, hfinal, sip256Digest]

/-- R98: SIP256 is the closed form of R97 over the bytes of the limbs. -/
theorem sip256Digest_eq_sipHash24 (r : OperandRegs) :
    sip256Digest r =
      sipHash24 r.k0 r.k1 (wordBytes r.val0 ++ wordBytes r.val1 ++ wordBytes r.val2 ++ wordBytes r.val3) := by
  have hbytes : wordBytes r.val0 ++ wordBytes r.val1 ++ wordBytes r.val2 ++ wordBytes r.val3 =
      [r.val0, r.val1, r.val2, r.val3].flatMap wordBytes := by simp
  rw [hbytes, ← SipCtx.digest_init_absorbBytes, SipCtx.absorbBytes_flatMap_wordBytes rfl rfl,
    SipCtx.foldl_absorbWord_limbs, SipCtx.digest_ofLimbs]

/-! ### The bytes of EXTRA behind the limbs -/

/-- The little-endian word of the bytes of a u32 is its zero-extension (R82, R102). -/
theorem leBytes_wordBytes32 (e : U32) : leBytes (wordBytes32 e) = e.setWidth 64 := by
  refine BitVec.eq_of_getLsbD_eq fun i hi => ?_
  rw [leBytes, getLsbD_leFrom _ 0 hi, Nat.sub_zero, BitVec.getLsbD_setWidth]
  by_cases hlow : i / 8 < 4
  · have hbyte : (wordBytes32 e).getD (i / 8) 0 = e.extractLsb' (8 * (i / 8)) 8 := by
      rw [List.getD_eq_getElem _ _ (by simpa [wordBytes32] using hlow)]
      simp [wordBytes32]
    rw [hbyte, BitVec.getLsbD_extractLsb', Nat.div_add_mod]
    simp [Nat.mod_lt, hi]
  · have hout : e.getLsbD i = false := BitVec.getLsbD_of_ge e _ (by omega)
    rw [List.getD_eq_default _ _ (by simpa [wordBytes32] using hlow), hout]
    simp

theorem lastGroup_of_length_lt {m : List Byte} (h : m.length < 8) : lastGroup m = m := by
  rw [lastGroup, Nat.div_eq_of_lt h, Nat.mul_zero, List.drop_zero]

theorem compressGroups_of_length_lt {m : List Byte} (h : m.length < 8) (v : SipState) : compressGroups v m = v := by
  rw [compressGroups, Nat.div_eq_of_lt h, List.range_zero, List.foldl_nil]

/-- R102: the four bytes fill no group, so they stay in the tail. -/
theorem SipCtx.absorbBytes_ofLimbs_wordBytes32 (r : OperandRegs) (e : U32) :
    (ofLimbs r).absorbBytes (wordBytes32 e) = { ofLimbs r with count := 36, tail := e.setWidth 64 } := by
  have hlength : (wordBytes32 e).length = 4 := by simp [wordBytes32]
  have hshort : (wordBytes32 e).length < 8 := by omega
  have hcount : (32 : U64) + BitVec.ofNat 64 4 = 36 := by decide
  rw [absorbBytes_eq_afterBytes (ofLimbs_pending r) rfl, afterBytes, compressGroups_of_length_lt hshort,
    lastGroup_of_length_lt hshort, leBytes_wordBytes32, hlength, ofLimbs, hcount]

/-- R102: the final word of the stream is that of SIP256X. -/
theorem SipCtx.digest_ofLimbs_extra (r : OperandRegs) :
    ({ ofLimbs r with count := 36, tail := r.extra.setWidth 64 } : SipCtx).digest = sip256xDigest r := by
  have hlength : (36 : U64) <<< 56 = 0x2400000000000000 := by decide
  simp only [digest, ofLimbs, hlength, BitVec.or_comm, sip256xDigest]

/-! ### The streaming runs -/

theorem runInstrs_append_of_next {p : List Instr} {s t : State} (h : runInstrs p s = .next t) (q : List Instr) :
    runInstrs (p ++ q) s = runInstrs q t := by
  induction p generalizing s with
  | nil =>
    cases h
    rfl
  | cons i p ih =>
    obtain ⟨u, hu, hrun⟩ := runInstrs_cons h
    rw [List.cons_append, runInstrs_cons_of_exec hu, ih hrun]

/-- A SIPWORD for each word changes WORD and the context only. -/
theorem runInstrs_sipwordRun_frame {s : State} (ws : List U64) (he : s.errs.err = false) (hv : s.ctx.valid = true)
    (hp : s.ctx.pending = 0) :
    ∃ w, runInstrs (sipwordRun ws) s =
      .next ((s.withRegs { s.regs with word := w }).withCtx (ws.foldl SipCtx.absorbWord s.ctx)) := by
  induction ws generalizing s with
  | nil => exact ⟨s.regs.word, rfl⟩
  | cons w ws ih =>
    obtain ⟨w', hrun⟩ := ih (s := (s.withRegs { s.regs with word := w }).withCtx (s.ctx.absorbWord w)) he hv
      (by rw [State.withCtx_ctx, SipCtx.absorbWord_pending, hp])
    refine ⟨w', ?_⟩
    rw [sipwordRun, List.flatMap_cons, List.cons_append, List.cons_append, List.nil_append,
      runInstrs_loadWord_sipword he hv hp, ← sipwordRun, hrun]
    rfl

/-- R101: SIPINIT and the SIPWORDs of the four limbs change WORD and the context only. -/
theorem runInstrs_sipinit_limbs {s : State} (he : s.errs.err = false) :
    ∃ w, runInstrs ([.sipinit] ++ sipwordRun [s.regs.val0, s.regs.val1, s.regs.val2, s.regs.val3]) s =
      .next ((s.withRegs { s.regs with word := w }).withCtx (SipCtx.ofLimbs s.regs)) := by
  obtain ⟨w, hrun⟩ := runInstrs_sipwordRun_frame (s := s.withCtx (SipCtx.init s.regs.k0 s.regs.k1))
    [s.regs.val0, s.regs.val1, s.regs.val2, s.regs.val3] he rfl rfl
  rw [State.withCtx_ctx, SipCtx.foldl_absorbWord_limbs] at hrun
  exact ⟨w, by rw [List.singleton_append, runInstrs_cons_of_exec (exec_sipinit he), hrun]; rfl⟩

theorem runInstrs_sipfinal {s : State} (he : s.errs.err = false) (hv : s.ctx.valid = true) :
    runInstrs [.sipfinal] s = .next (s.withResult s.ctx.digest) := by
  rw [runInstrs_cons_of_exec (exec_sipfinal he hv), runInstrs]

/-- SRC and LEN are loaded with the operand `(a, n)`, and its bytes are absorbed. -/
theorem runInstrs_loadOperand_sipbytes {s : State} (he : s.errs.err = false) (hv : s.ctx.valid = true) {a n : U32}
    (hr : a.toNat + n.toNat ≤ s.dmemSize) (p : List Instr) :
    runInstrs (hwrReg .src (a.setWidth 64) :: hwrReg .len (n.setWidth 64) :: .sipbytes :: p) s =
      runInstrs p ((s.withRegs { s.regs with src := a, len := n }).withCtx
        (s.ctx.absorbBytes (s.memRead a.toNat n.toNat))) := by
  have hload : ∀ x : U32, (x.setWidth 64).setWidth 32 = x := fun x => by simp
  have hsrc : exec (hwrReg .src (a.setWidth 64)) s = .next (s.withRegs { s.regs with src := a }) :=
    exec_hwrReg (by rw [writeReg, hload])
  have hlen : exec (hwrReg .len (n.setWidth 64)) (s.withRegs { s.regs with src := a }) =
      .next (s.withRegs { s.regs with src := a, len := n }) := exec_hwrReg (by rw [writeReg, hload]; rfl)
  have hbytes := exec_sipbytes (s := s.withRegs { s.regs with src := a, len := n }) he hv hr
  rw [runInstrs_cons_of_exec hsrc, runInstrs_cons_of_exec hlen, runInstrs_cons_of_exec hbytes]
  simp

/-- Settles O56: SIP256 is the digest of the context that the four limbs leave. -/
theorem sip256EqualsTheStreamingPath : Obligations.Sip256EqualsTheStreamingPath := by
  unfold Obligations.Sip256EqualsTheStreamingPath
  intro s he
  obtain ⟨w, hlimbs⟩ := runInstrs_sipinit_limbs he
  have hfinal := runInstrs_sipfinal
    (s := (s.withRegs { s.regs with word := w }).withCtx (SipCtx.ofLimbs s.regs)) he rfl
  refine ⟨_, _, exec_sip256 he, ?_, by rw [runInstrs_append_of_next hlimbs, hfinal], ?_, rfl, rfl, ?_⟩
  · rw [State.withResult_result, State.withResult]
  · rw [State.withResult_result, State.withResult_result, State.withCtx_ctx, SipCtx.digest_ofLimbs]
  · rw [State.withResult_result, sip256Digest_eq_sipHash24]

/-- Settles O57: SIP256X is the digest of the context that the four limbs and the bytes of EXTRA leave. -/
theorem sip256xEqualsTheStreamingPath : Obligations.Sip256xEqualsTheStreamingPath := by
  unfold Obligations.Sip256xEqualsTheStreamingPath
  intro s a he hr hmem
  have hextra : s.memRead a.toNat (4 : U32).toNat = wordBytes32 s.regs.extra := hmem
  obtain ⟨w, hlimbs⟩ := runInstrs_sipinit_limbs he
  have hbytes := runInstrs_loadOperand_sipbytes (a := a) (n := 4)
    (s := (s.withRegs { s.regs with word := w }).withCtx (SipCtx.ofLimbs s.regs)) he rfl hr [.sipfinal]
  rw [State.withCtx_memRead, State.withRegs_memRead, hextra, State.withCtx_ctx,
    SipCtx.absorbBytes_ofLimbs_wordBytes32, runInstrs_sipfinal (by simpa using he) rfl, State.withCtx_ctx,
    SipCtx.digest_ofLimbs_extra] at hbytes
  exact ⟨_, _, exec_sip256x he, (runInstrs_append_of_next hlimbs _).trans hbytes, rfl, rfl, rfl⟩

end Sys2Proof.Machine
end

section
/-! MUR32 (44_murmur3.md R103 to R108): the command when its operand lies in DMEM, the digest of the shortest operands (R107),
and what the digest depends on (R108). -/

namespace Sys2Proof.Machine

/-! ### The command -/

theorem mur32Effect_of_range {s : State} (hr : s.regs.src.toNat + s.regs.len.toNat ≤ s.dmemSize) :
    mur32Effect s =
      .ok (s.withResult ((murmur3 s.regs.seed (s.memRead s.regs.src.toNat s.regs.len.toNat)).setWidth 64)) := by
  have hin : s.dataInDmem = true := decide_eq_true hr
  rw [mur32Effect, if_pos hin, State.dataBytes]

theorem exec_mur32 {s : State} (he : s.errs.err = false) (hr : s.regs.src.toNat + s.regs.len.toNat ≤ s.dmemSize) :
    exec .mur32 s =
      .next (s.withResult ((murmur3 s.regs.seed (s.memRead s.regs.src.toNat s.regs.len.toNat)).setWidth 64)) := by
  rw [exec_of_issuedCommand rfl, effectOf, runCommand_of_ok he (mur32Effect_of_range hr)]

/-- The command, where the length of the operand is known as a number. -/
theorem exec_mur32_of_len {s : State} {n : Nat} (he : s.errs.err = false) (hlen : s.regs.len.toNat = n)
    (hr : s.regs.src.toNat + n ≤ s.dmemSize) :
    exec .mur32 s = .next (s.withResult ((murmur3 s.regs.seed (s.memRead s.regs.src.toNat n)).setWidth 64)) := by
  subst hlen
  exact exec_mur32 he hr

/-! ### Two states with equal operand bytes -/

theorem State.memRead_congr {s s' : State} {a a' n : Nat} (h : ∀ i < n, s.readByte (a + i) = s'.readByte (a' + i)) :
    s.memRead a n = s'.memRead a' n :=
  List.map_congr_left fun i hi => h i (List.mem_range.mp hi)

/-- Settles O46: SEED and the operand bytes, as a list, are all that the digest reads. -/
theorem mur32DependsOnlyOnSeedAndData : Obligations.Mur32DependsOnlyOnSeedAndData := by
  unfold Obligations.Mur32DependsOnlyOnSeedAndData
  intro s s' he he' hr hr' hseed hlen hbytes
  refine ⟨_, _, exec_mur32 he hr, exec_mur32 he' hr', ?_⟩
  rw [State.withResult_result, State.withResult_result, ← hseed, ← hlen, State.memRead_congr hbytes]

/-! ### The digest of the shortest operands -/

theorem murMix_zero : murMix 0 = 0 := by decide

theorem murTail_nil (h : U32) : murTail h [] = h := rfl

theorem murTail_singleton (h : U32) (b : Byte) : murTail h [b] = h ^^^ murMix (b.setWidth 32) := by
  simp [murTail]

/-- Fewer than four bytes hold no block: they are all tail. -/
theorem murBlocks_of_length_lt {m : List Byte} (hm : m.length < 4) (h : U32) : murBlocks h m = (h, m) := by
  match m with
  | [] | [_] | [_, _] | [_, _, _] => rfl
  | _ :: _ :: _ :: _ :: _ => simp only [List.length_cons] at hm; omega

theorem murmur3_of_length_lt {m : List Byte} (hm : m.length < 4) (seed : U32) :
    murmur3 seed m = fmix32 (murTail seed m ^^^ BitVec.ofNat 32 m.length) := by
  rw [murmur3, murBlocks_of_length_lt hm]

/-- R107: with LEN 0 only the avalanche of SEED is left. -/
theorem murmur3_nil (seed : U32) : murmur3 seed [] = fmix32 seed := by
  rw [murmur3_of_length_lt (by decide), murTail_nil, List.length_nil, BitVec.xor_zero]

/-- R107: a lone byte is all tail, and the length counts it whatever its value. -/
theorem murmur3_singleton (seed : U32) (b : Byte) : murmur3 seed [b] = fmix32 (seed ^^^ murMix (b.setWidth 32) ^^^ 1) := by
  rw [murmur3_of_length_lt (by simp), murTail_singleton]
  rfl

/-- R107: four bytes are one block and leave no tail. -/
theorem murmur3_of_four (seed : U32) (b0 b1 b2 b3 : Byte) :
    murmur3 seed [b0, b1, b2, b3] = fmix32 (murBlock seed (le32 b0 b1 b2 b3) ^^^ 4) := rfl

theorem State.memRead_zero (s : State) (a : Nat) : s.memRead a 0 = [] := rfl

theorem State.memRead_one (s : State) (a : Nat) : s.memRead a 1 = [s.readByte a] := rfl

theorem State.memRead_four (s : State) (a : Nat) :
    s.memRead a 4 = [s.readByte a, s.readByte (a + 1), s.readByte (a + 2), s.readByte (a + 3)] := rfl

theorem fmix32_zero : fmix32 0 = 0 := by decide

theorem fmix32_one : fmix32 1 = 0x514e28b7 := by decide

/-- R107's example: the key mix of the byte 00 is 0, so the length alone is left. -/
theorem murmur3_zero_byte : murmur3 0 [0] = 0x514e28b7 := by
  have hmix : murMix ((0 : Byte).setWidth 32) = 0 := murMix_zero
  rw [murmur3_singleton, hmix]
  exact fmix32_one

/-- Settles O45: each clause is the digest of the operand at its length. -/
theorem mur32CornerCases : Obligations.Mur32CornerCases := by
  unfold Obligations.Mur32CornerCases
  refine ⟨fun s he hr hlen => ?_, fmix32_zero, fmix32_one, fun h => ⟨murTail_nil h, ?_⟩, fun s he hr hlen => ?_,
    fun s he hr hlen hseed hbyte => ?_⟩
  · rw [exec_mur32_of_len (n := 0) he (congrArg BitVec.toNat hlen) hr, State.memRead_zero, murmur3_nil, State.withResult]
  · rw [murMix_zero]
    exact BitVec.xor_zero
  · rw [exec_mur32_of_len (n := 4) he (congrArg BitVec.toNat hlen) hr, State.memRead_four, murmur3_of_four, State.withResult]
  · rw [exec_mur32_of_len (n := 1) he (congrArg BitVec.toNat hlen) hr, State.memRead_one, hseed, hbyte,
      murmur3_zero_byte, State.withResult]
    rfl

end Sys2Proof.Machine
end

section
/-! BIP32H (45_bip32.md R109 to R112): the command when its three ranges lie in DMEM, the call that its operands frame, and the
bytes of the answer at DST. -/

namespace Sys2Proof.Machine

/-! ### The command -/

/-- R109: the three ranges, in naturals. -/
theorem State.bip32InDmem_iff (s : State) :
    s.bip32InDmem = true ↔ s.regs.aux.toNat + 32 ≤ s.dmemSize ∧ s.regs.src.toNat + 32 ≤ s.dmemSize ∧
      s.regs.dst.toNat + 64 ≤ s.dmemSize := by
  simp [State.bip32InDmem, State.inDmem, and_assoc]

theorem exec_bip32h {s : State} (he : s.errs.err = false) (hin : s.bip32InDmem = true) :
    exec .bip32h s =
      .next ((s.memWrite s.regs.dst.toNat s.bip32Call.answer.toList).recordCall s.bip32Call) := by
  rw [exec_of_issuedCommand rfl, effectOf, runCommand_of_ok he (by rw [bip32hEffect, if_pos hin])]

/-! ### The call -/

/-- R110: the message is fixed by its header, its key material and its four index bytes. -/
theorem eq_bip32Msg {m : Vector Byte 37} {h : Byte} {k : Vector Byte 32} {w : U32} (hhead : m[0] = h)
    (hkey : ∀ (i : Nat) (hi : i < 32), m[i + 1] = k[i])
    (hindex : ∀ (i : Nat) (hi : i < 4), m[i + 33] = (be32Bytes w)[i]) : m = bip32Msg h k w := by
  refine Vector.ext fun i hi => ?_
  rw [bip32Msg_getElem]
  split
  · next hzero =>
    subst hzero
    exact hhead
  · split
    · next hpos hlow =>
      rw [← hkey (i - 1) hlow]
      simp only [Nat.sub_add_cancel (Nat.one_le_iff_ne_zero.2 hpos)]
    · next hhigh =>
      rw [← hindex (i - 33) (by omega)]
      simp only [Nat.sub_add_cancel (show 33 ≤ i by omega)]

/-- R111: a call with the key at AUX and the message of R110 is the one BIP32H makes. -/
theorem eq_bip32Call {s : State} {c : HmacCall}
    (hkey : ∀ (i : Nat) (h : i < 32), c.key[i] = s.readByte (s.regs.aux.toNat + i))
    (hmsg : c.msg = bip32Msg s.regs.header (s.memReadVec s.regs.src.toNat 32) s.regs.index) : c = s.bip32Call := by
  have hchain : c.key = s.memReadVec s.regs.aux.toNat 32 :=
    Vector.ext fun i hi => by rw [hkey i hi, State.memReadVec_getElem]
  rw [State.bip32Call, ← hchain, ← hmsg]

/-! ### The answer at DST -/

/-- R112: the written vector, byte by byte in order. -/
theorem State.readByte_memWrite_toList {n : Nat} (s : State) (a : Nat) (v : Vector Byte n) (i : Nat) (hi : i < n) :
    (s.memWrite a v.toList).readByte (a + i) = v[i] := by
  rw [State.readByte_memWrite, Vector.length_toList, if_pos (by omega), Nat.add_sub_cancel_left,
    List.getD_eq_getElem _ _ (by rwa [Vector.length_toList]), Vector.getElem_toList]

theorem State.readByte_memWrite_of_outside {n : Nat} (s : State) (a : Nat) (v : Vector Byte n) {x : Nat}
    (hx : x < a ∨ a + n ≤ x) : (s.memWrite a v.toList).readByte x = s.readByte x := by
  rw [State.readByte_memWrite, Vector.length_toList, if_neg (by omega)]

/-- Settles O58: the call of the premises is the one BIP32H makes, and its answer is written after both inputs are read. -/
theorem bip32hFramesCallsAndStores : Obligations.Bip32hFramesCallsAndStores := by
  unfold Obligations.Bip32hFramesCallsAndStores
  intro s c he haux hsrc hdst hkey hhead hmaterial h33 h34 h35 h36
  have hin : s.bip32InDmem = true := s.bip32InDmem_iff.2 ⟨haux, hsrc, hdst⟩
  have hindex : ∀ (i : Nat) (hi : i < 4), c.msg[i + 33] = (be32Bytes s.regs.index)[i] := by
    intro i hi
    match i, hi with
    | 0, _ => exact h33
    | 1, _ => exact h34
    | 2, _ => exact h35
    | 3, _ => exact h36
  have hmsg : c.msg = bip32Msg s.regs.header (s.memReadVec s.regs.src.toNat 32) s.regs.index :=
    eq_bip32Msg hhead (fun i hi => by rw [hmaterial i hi, State.memReadVec_getElem]) hindex
  obtain rfl : c = s.bip32Call := eq_bip32Call hkey hmsg
  refine ⟨_, exec_bip32h he hin, ?_, fun i hi => ?_, fun a ha => ?_⟩
  · rw [State.recordCall_dmem, State.recordCall, State.memWrite]
  · rw [State.recordCall_readByte, State.readByte_memWrite_toList s _ _ i hi, HmacCall.answer]
  · rw [State.recordCall_readByte, State.readByte_memWrite_of_outside s _ _ ha]

end Sys2Proof.Machine
end

section
/-! Errors of commands (60_exceptions.md R116 to R119, R125): the first error that applies to a command is captured with the
command's word, and nothing else is written. -/

namespace Sys2Proof.Machine

/-! ### Illegal command words -/

/-- R56, R58: the two fields of the word of a command. -/
theorem commandWord_fields (c : Command) :
    (commandWord c).extractLsb' 8 24 = 0 ∧ (commandWord c).extractLsb' 0 8 ∈ assignedOpcodes := by
  cases c <;> decide

/-- R59: a word with a reserved bit or an unassigned OPC is no command. -/
theorem decode_cmdw_ne_of_reserved {w : U32} (h : w.extractLsb' 8 24 ≠ 0 ∨ w.extractLsb' 0 8 ∉ assignedOpcodes)
    (c : Command) : decode (.cmdw w) ≠ .ok c.toInstr := by
  intro hd
  obtain ⟨hrsv, hopc⟩ := commandWord_fields c
  rw [commandWord_of_decode (decode_cmdw_eq_toInstr_iff.1 hd)] at hrsv hopc
  rcases h with h | h
  · exact h hrsv
  · exact h hopc

/-- R72: a write to CMD is dispatched with its low 32 bits. -/
theorem exec_hwr_cmd (d : U64) (s : State) : exec (.hwr 0 d) s = dispatchCommand (d.setWidth 32) s :=
  exec_hwr_of_command rfl

/-- R116. -/
theorem exec_hwr_cmd_of_illegal {s : State} {d : U64} (he : s.errs.err = false)
    (hill : ∀ c : Command, decode (.cmdw (d.setWidth 32)) ≠ .ok c.toInstr) :
    exec (.hwr 0 d) s = .next { s with errs := ⟨true, 1, (d.setWidth 32).setWidth 64⟩ } := by
  obtain ⟨-, hillegal, -⟩ := commandDispatch s (d.setWidth 32)
  rw [exec_hwr_cmd, hillegal he hill]

/-- Settles O26: the word of a command has RSV = 0 and an assigned OPC, so the decoder refuses this one. -/
theorem illegalCommandWordIsCaptured : Obligations.IllegalCommandWordIsCaptured := by
  unfold Obligations.IllegalCommandWordIsCaptured
  exact fun s d he h => exec_hwr_cmd_of_illegal he (decode_cmdw_ne_of_reserved h)

/-! ### The errors of each command, in their order -/

/-- R117 to R119, R125: the first error that applies to a command in a state; `none` where it completes. -/
def State.causeOf (s : State) : Command → Option Cause
  | .sipword =>
    if s.ctx.valid = false then some .sipNoctx
    else if s.ctx.count.toNat % 8 ≠ 0 then some .sipUnaligned else none
  | .sipbytes =>
    if s.ctx.valid = false then some .sipNoctx
    else if s.regs.src.toNat + s.regs.len.toNat > s.dmemSize then some .dmemRange else none
  | .sipfinal => if s.ctx.valid = false then some .sipNoctx else none
  | .mur32 => if s.regs.src.toNat + s.regs.len.toNat > s.dmemSize then some .dmemRange else none
  | .bip32h =>
    if s.regs.aux.toNat + 32 > s.dmemSize ∨ s.regs.src.toNat + 32 > s.dmemSize ∨ s.regs.dst.toNat + 64 > s.dmemSize then
      some .dmemRange
    else none
  | .sipinit | .sip256 | .sip256x => none

theorem State.dataInDmem_iff (s : State) :
    s.dataInDmem = true ↔ ¬ s.regs.src.toNat + s.regs.len.toNat > s.dmemSize := by
  simp [State.dataInDmem, State.inDmem]

/-- `causeOf` is the error that the effect of the command answers. -/
theorem effectOf_eq_error_iff {c : Command} {s : State} {e : Cause} :
    effectOf c s = .error e ↔ s.causeOf c = some e := by
  cases c with
  | mur32 =>
    rw [effectOf, mur32Effect, State.causeOf]
    by_cases hr : s.regs.src.toNat + s.regs.len.toNat > s.dmemSize <;> simp [s.dataInDmem_iff, hr]
  | sipword =>
    rw [effectOf, sipwordEffect, State.causeOf, SipCtx.pending]
    cases hv : s.ctx.valid with
    | false => simp
    | true => by_cases hp : s.ctx.count.toNat % 8 = 0 <;> simp [hp]
  | sipbytes =>
    rw [effectOf, sipbytesEffect, State.causeOf]
    cases hv : s.ctx.valid with
    | false => simp
    | true => by_cases hr : s.regs.src.toNat + s.regs.len.toNat > s.dmemSize <;> simp [s.dataInDmem_iff, hr]
  | sipfinal =>
    rw [effectOf, sipfinalEffect, State.causeOf]
    cases hv : s.ctx.valid <;> simp
  | bip32h =>
    rw [effectOf, bip32hEffect, State.causeOf]
    by_cases hin : s.bip32InDmem = true
    · have hr := s.bip32InDmem_iff.1 hin
      rw [if_pos hin, if_neg (by omega)]
      simp
    · have hr := mt s.bip32InDmem_iff.2 hin
      rw [if_neg hin, if_pos (by omega)]
      simp
  | sipinit => simp [effectOf, sipinitEffect, State.causeOf]
  | sip256 => simp [effectOf, sip256Effect, State.causeOf]
  | sip256x => simp [effectOf, sip256xEffect, State.causeOf]

/-- R122: an error of a command writes ERR, ECAUSE and EINFO, and nothing else. -/
theorem exec_of_causeOf {i : Instr} {c : Command} {s : State} {e : Cause} (hi : issuedCommand i = some c)
    (he : s.errs.err = false) (hc : s.causeOf c = some e) :
    exec i s = .next { s with errs := ⟨true, e.code, commandInfo (commandWord c)⟩ } := by
  rw [exec_of_issuedCommand hi, runCommand_of_error he (effectOf_eq_error_iff.2 hc), State.raiseError_of_clear he]

/-- R124, R125: ERR, ECAUSE and EINFO after a command. -/
def State.errsAfter (s : State) (c : Command) : ErrorRegs :=
  if s.errs.err then s.errs
  else (s.causeOf c).elim s.errs fun e => ⟨true, e.code, commandInfo (commandWord c)⟩

theorem exec_errs {i : Instr} {c : Command} {s : State} {e : ErrorRegs} (hi : issuedCommand i = some c)
    (h : s.errsAfter c = e) : ∃ t, exec i s = .next t ∧ t.errs = e := by
  subst h
  rw [State.errsAfter]
  cases he : s.errs.err with
  | true => exact ⟨s, by rw [exec_of_issuedCommand hi, runCommand_of_err he], rfl⟩
  | false =>
    match hf : effectOf c s with
    | .error e =>
      have hc := effectOf_eq_error_iff.1 hf
      exact ⟨_, exec_of_causeOf hi he hc, by simp [hc]⟩
    | .ok t =>
      have hc : s.causeOf c = none :=
        Option.eq_none_iff_forall_ne_some.2 fun e hc => by simp [effectOf_eq_error_iff.2 hc] at hf
      obtain ⟨herrs, -⟩ := effectOf_frame hf
      exact ⟨t, by rw [exec_of_issuedCommand hi, runCommand_of_ok he hf], by simp [hc, herrs]⟩

/-- Settles O27: a missing context is the first error of the three stream commands. -/
theorem streamCommandWithoutContextIsCaptured : Obligations.StreamCommandWithoutContextIsCaptured := by
  unfold Obligations.StreamCommandWithoutContextIsCaptured
  intro s he hv
  have hword : s.causeOf .sipword = some .sipNoctx := if_pos hv
  have hbytes : s.causeOf .sipbytes = some .sipNoctx := if_pos hv
  have hfinal : s.causeOf .sipfinal = some .sipNoctx := if_pos hv
  exact ⟨exec_of_causeOf rfl he hword, exec_of_causeOf rfl he hbytes, exec_of_causeOf rfl he hfinal⟩

/-- Settles O28: with a context, the group boundary is what SIPWORD checks next. -/
theorem unalignedSipwordIsCaptured : Obligations.UnalignedSipwordIsCaptured := by
  unfold Obligations.UnalignedSipwordIsCaptured
  intro s he hv hp
  have hc : s.causeOf .sipword = some .sipUnaligned := by simp [State.causeOf, hv, hp]
  exact exec_of_causeOf rfl he hc

/-- Settles O29: the range check is the only one that MUR32 and BIP32H make, and the one after the context in SIPBYTES. -/
theorem operandOutsideDmemIsCaptured : Obligations.OperandOutsideDmemIsCaptured := by
  unfold Obligations.OperandOutsideDmemIsCaptured
  refine fun s he => ⟨fun hr => ⟨?_, fun hv => ?_⟩, fun hr => ?_⟩
  · have hc : s.causeOf .mur32 = some .dmemRange := if_pos hr
    exact exec_of_causeOf rfl he hc
  · have hc : s.causeOf .sipbytes = some .dmemRange := by simp [State.causeOf, hv, hr]
    exact exec_of_causeOf rfl he hc
  · have hc : s.causeOf .bip32h = some .dmemRange := if_pos hr
    exact exec_of_causeOf rfl he hc

/-- A chain of checks, read as the errors it leaves. -/
theorem elim_ite_some {α β : Type} {p : Prop} [Decidable p] (a : α) (o : Option α) (b : β) (f : α → β) :
    (if p then some a else o).elim b f = if p then f a else o.elim b f := by
  split <;> rfl

/-- Settles O31: while ERR = 1 every command is discarded; else the word is decoded; else the errors of each command come in
the order of `causeOf`. -/
theorem commandErrorPriority : Obligations.CommandErrorPriority := by
  unfold Obligations.CommandErrorPriority
  refine ⟨fun s he => ⟨fun c => ?_, fun d => ?_⟩, fun s d => exec_hwr_cmd_of_illegal, fun s => exec_errs rfl ?sipword,
    fun s => exec_errs rfl ?sipbytes, fun s => exec_errs rfl ?sipfinal, fun s => exec_errs rfl ?mur32,
    fun s => exec_errs rfl ?bip32h⟩
  · rw [exec_of_issuedCommand (issuedCommand_toInstr c), runCommand_of_err he]
  · rw [exec_hwr_cmd, dispatchCommand_of_err he]
  -- Every chain of R125 is the chain of checks of `causeOf`.
  all_goals
    simp only [State.errsAfter, State.causeOf, elim_ite_some]
    rfl

end Sys2Proof.Machine
end

section
/-! Reset (70_reset_and_hazards.md R132, R133): the state that a reset leaves, and that only SIPINIT makes its context usable. -/

namespace Sys2Proof.Machine

/-! ### The state after reset -/

/-- A reset between commands is one step (R132). -/
theorem step_of_reset {s : State} {rest : List HostEvent} (h : s.port = .reset :: rest) :
    step s = .next (s.withPort rest).resetCore := by
  simp only [step, State.takeEvent, h]

/-- After reset STATUS reads as the word of cleared error registers and an unusable context, every other register as its own
reset value (R132). -/
@[simp] theorem State.resetCore_readReg (s : State) (r : Reg) : s.resetCore.readReg r = 0 := by
  cases r with
  | status => exact (by decide : statusWord ErrorRegs.reset SipCtx.reset.valid = 0)
  | _ => rfl

/-- The cleared context has no pending bytes and an empty tail (R28, R133). -/
theorem State.resetCore_ctxInv (s : State) : s.resetCore.CtxInv := by
  rw [State.CtxInv, State.resetCore_ctx]
  decide

/-- Settles O9: the step performs the reset, and a read shows the reset value of each register. -/
theorem resetClearsEveryRegister : Obligations.ResetClearsEveryRegister := by
  unfold Obligations.ResetClearsEveryRegister
  intro s rest hport
  exact ⟨_, step_of_reset hport, State.resetCore_readReg _, State.resetCore_errs _, State.resetCore_result _,
    State.resetCore_regs _⟩

/-! ### A context that is not usable -/

/-- Without a context, only SIPINIT writes it: SIPWORD and SIPBYTES, the other writers of R32, do not complete (R117). -/
theorem exec_ctx_of_invalid {i : Instr} {s t : State} (hi : issuedCommand i ≠ some .sipinit) (hv : s.ctx.valid = false)
    (h : exec i s = .next t) : t.ctx = s.ctx := by
  cases exec_cases h with
  | completed c hc he t ht =>
    cases c with
    | sipinit => exact absurd hc hi
    | sipword =>
      obtain ⟨hvalid, -⟩ := sipwordEffect_cases ht
      simp [hv] at hvalid
    | sipbytes =>
      obtain ⟨hvalid, -⟩ := sipbytesEffect_cases ht
      simp [hv] at hvalid
    | _ => simpa using effectOf_ctx ht
  | _ => simp

/-- A run that issues no SIPINIT leaves an unusable context unusable (R30). -/
theorem runInstrs_invalid {p : List Instr} {s t : State} (hp : ∀ i ∈ p, issuedCommand i ≠ some .sipinit)
    (hv : s.ctx.valid = false) (h : runInstrs p s = .next t) : t.ctx.valid = false := by
  have hnever : NeverAlong (fun i _ => issuedCommand i = some .sipinit) p s :=
    neverAlong_of_forall_mem (fun i hi _ => hp i hi) s
  refine runInstrs_keeps (I := fun u => u.ctx.valid = false) (fun hi hex hu => ?_) hnever h hv
  rw [exec_ctx_of_invalid hi hu hex, hu]

/-- Settles O10: reset clears the context, a run without SIPINIT keeps it unusable, and a stream command then captures
SIP_NOCTX (O27). -/
theorem resetContextIsUnusableUntilSipinit : Obligations.ResetContextIsUnusableUntilSipinit := by
  unfold Obligations.ResetContextIsUnusableUntilSipinit
  intro s rest hport
  refine ⟨_, step_of_reset hport, State.resetCore_ctx _, State.resetCore_ctxInv _,
    fun r _ => State.resetCore_readReg _ r, fun p u hp hrun he => ?_⟩
  have hv : u.ctx.valid = false := runInstrs_invalid hp (by rw [State.resetCore_ctx, SipCtx.reset]) hrun
  exact streamCommandWithoutContextIsCaptured u he hv

end Sys2Proof.Machine
end

section
/-! Encoding and decoding are inverse to each other (30_encoding.md R58, R62, R63): decoding an encoding gives the instruction
back, a decoded frame is the encoding of its instruction, and the frames that decode are the well-formed ones. -/

namespace Sys2Proof

/-- The five kinds of instruction: a command, or one of the four transactions (R58, R63). -/
theorem Instr.kindCases {P : Instr → Prop} (command : ∀ c : Command, P c.toInstr) (hrd : ∀ n, P (.hrd n))
    (hwr : ∀ n d, P (.hwr n d)) (hrdb : ∀ a, P (.hrdb a)) (hwrb : ∀ a b, P (.hwrb a b)) (i : Instr) : P i := by
  cases i with
  | mur32 => exact command .mur32
  | sipinit => exact command .sipinit
  | sipword => exact command .sipword
  | sipbytes => exact command .sipbytes
  | sipfinal => exact command .sipfinal
  | sip256 => exact command .sip256
  | sip256x => exact command .sip256x
  | bip32h => exact command .bip32h
  | hrd n => exact hrd n
  | hwr n d => exact hwr n d
  | hrdb a => exact hrdb a
  | hwrb a b => exact hwrb a b

theorem encode_toInstr (c : Command) : encode c.toInstr = .cmdw (commandWord c) := by
  cases c <;> rfl

/-- Settles O1: the frame of a command is its full word, and each kind of transaction has its decoding lemma. -/
theorem decodeOfEncodeIsTheInstruction : Obligations.DecodeOfEncodeIsTheInstruction := by
  unfold Obligations.DecodeOfEncodeIsTheInstruction
  intro i
  cases i using Instr.kindCases with
  | command c => rw [encode_toInstr, decode_commandWord]
  | hrd n => exact decode_registerRead n
  | hwr n d => exact decode_registerWrite n d
  | hrdb a => exact decode_byteRead a
  | hwrb a b => exact decode_byteWrite a b

/-! ### A frame that decodes -/

/-- A number below 256 is the zero-extension of its low byte. -/
theorem setWidth_lowByte {w : Nat} (hw : 8 ≤ w) {x : BitVec w} (hx : x.toNat < 256) : (x.extractLsb' 0 8).setWidth w = x := by
  apply BitVec.eq_of_toNat_eq
  rw [BitVec.toNat_setWidth_of_le hw, BitVec.extractLsb'_toNat, Nat.shiftRight_zero, Nat.mod_eq_of_lt hx]

theorem setWidth_of_regNumber {a : U32} {n : BitVec 8} (h : regNumber a = .ok n) : n.setWidth 32 = a := by
  rw [regNumber] at h
  split at h <;> cases h
  exact setWidth_lowByte (by decide) ‹_›

/-- The four kinds of transaction (R62). -/
theorem kind_cases (k : BitVec 2) : k = 0 ∨ k = 1 ∨ k = 2 ∨ k = 3 := by
  revert k
  decide

theorem except_map_eq_ok {ε α β : Type} {x : Except ε α} {f : α → β} {b : β} :
    x.map f = .ok b ↔ ∃ a, x = .ok a ∧ f a = b := by
  cases x <;> simp [Except.map]

theorem encode_of_decodeTransaction {t : Transaction} {i : Instr} (h : decodeTransaction t = .ok i) : encode i = .host t := by
  obtain ⟨k, a, d⟩ := t
  rcases kind_cases k with rfl | rfl | rfl | rfl
  · match d with
    | none =>
      obtain ⟨n, hn, rfl⟩ := except_map_eq_ok.1 h
      rw [encode, setWidth_of_regNumber hn]
    | some _ => cases h
  · match d with
    | none => cases h
    | some d =>
      obtain ⟨n, hn, rfl⟩ := except_map_eq_ok.1 h
      rw [encode, setWidth_of_regNumber hn]
  · match d with
    | none =>
      cases h
      rfl
    | some _ => cases h
  · match d with
    | none => cases h
    | some d =>
      by_cases hd : d.toNat < 256
      · obtain rfl : .hwrb a (d.extractLsb' 0 8) = i := Except.ok.inj ((if_pos hd).symm.trans h)
        rw [encode, setWidth_lowByte (by decide) hd]
      · cases (if_neg hd).symm.trans h

/-- Settles O2: a command word is the full word of its command, and a transaction holds the operands in full. -/
theorem decodedFrameIsTheEncoding : Obligations.DecodedFrameIsTheEncoding := by
  unfold Obligations.DecodedFrameIsTheEncoding
  intro f i h
  cases f with
  | cmdw w =>
    obtain ⟨c, hc, rfl⟩ := except_map_eq_ok.1 h
    rw [encode_toInstr, Machine.commandWord_of_decode hc]
  | host t => exact encode_of_decodeTransaction h

/-! ### The well-formed frames -/

theorem wellFormed_commandWord (c : Command) : (Frame.cmdw (commandWord c)).wellFormed = true := by
  cases c <;> decide

theorem wellFormed_encode (i : Instr) : (encode i).wellFormed = true := by
  cases i using Instr.kindCases with
  | command c => rw [encode_toInstr, wellFormed_commandWord]
  | hrd n => exact Laws.WellFormedEncoding.hrd n
  | hwr n d => exact Laws.WellFormedEncoding.hwr n d
  | hrdb a => exact Laws.WellFormedEncoding.hrdb a
  | hwrb a b => exact Laws.WellFormedEncoding.hwrb a b

/-- Each assigned OPC is that of one command (R58). -/
theorem exists_decodeCommand {w : U32} (hrsv : reservedClear w = true) (hopc : opcodeAssigned w = true) :
    ∃ c, decodeCommand w = .ok c := by
  have hclear : ¬ w.extractLsb' 8 24 ≠ 0 := not_not.2 (eq_of_beq hrsv)
  have hmem : w.extractLsb' 0 8 ∈ assignedOpcodes := List.contains_iff_mem.1 hopc
  simp only [assignedOpcodes, List.mem_cons, List.not_mem_nil, or_false] at hmem
  simp only [decodeCommand, if_neg hclear]
  rcases hmem with h | h | h | h | h | h | h | h <;> rw [h] <;> exact ⟨_, rfl⟩

theorem exists_regNumber {a : U32} (h : fitsRegNumber a = true) : ∃ n, regNumber a = .ok n :=
  ⟨_, if_pos (of_decide_eq_true h)⟩

theorem exists_decodeTransaction {t : Transaction} (h : (Frame.host t).wellFormed = true) :
    ∃ i, decodeTransaction t = .ok i := by
  obtain ⟨k, a, d⟩ := t
  rcases kind_cases k with rfl | rfl | rfl | rfl
  · obtain ⟨hfits, hd⟩ := (Bool.and_eq_true _ _).mp h
    obtain rfl := Option.isNone_iff_eq_none.1 hd
    obtain ⟨n, hn⟩ := exists_regNumber hfits
    exact ⟨.hrd n, except_map_eq_ok.2 ⟨n, hn, rfl⟩⟩
  · obtain ⟨hfits, hd⟩ := (Bool.and_eq_true _ _).mp h
    match d with
    | none => cases hd
    | some d =>
      obtain ⟨n, hn⟩ := exists_regNumber hfits
      exact ⟨.hwr n d, except_map_eq_ok.2 ⟨n, hn, rfl⟩⟩
  · obtain rfl := Option.isNone_iff_eq_none.1 h
    exact ⟨.hrdb a, rfl⟩
  · match d with
    | none => cases h
    | some d => exact ⟨_, if_pos (of_decide_eq_true h)⟩

/-- Settles O3: a decoded frame is an encoding, and encodings are well formed; a well-formed frame passes every check of the
decoder. -/
theorem decoderAcceptsExactlyTheWellFormedFrames : Obligations.DecoderAcceptsExactlyTheWellFormedFrames := by
  unfold Obligations.DecoderAcceptsExactlyTheWellFormedFrames
  refine fun f => ⟨fun ⟨i, hi⟩ => ?_, fun h => ?_⟩
  · rw [← decodedFrameIsTheEncoding f i hi]
    exact wellFormed_encode i
  · cases f with
    | cmdw w =>
      obtain ⟨hrsv, hopc⟩ := (Bool.and_eq_true _ _).mp h
      obtain ⟨c, hc⟩ := exists_decodeCommand hrsv hopc
      exact ⟨c.toInstr, except_map_eq_ok.2 ⟨c, hc, rfl⟩⟩
    | host t => exact exists_decodeTransaction h

end Sys2Proof
end

section
/-! What one instruction can change, field by field (10_state.md R15 to R36, 20_memory.md R39, R54, 60_exceptions.md R114, R123,
R124): who writes RESULT, the context, DMEM, the error registers, the calls and the responses. -/

namespace Sys2Proof.Machine

/-! ### Every instruction answers -/

theorem runCommand_next (c : U32) (f : State → Except Cause State) (s : State) : ∃ t, runCommand c f s = .next t := by
  match he : s.errs.err with
  | true => exact ⟨s, runCommand_of_err he c f⟩
  | false =>
    match hf : f s with
    | .ok t => exact ⟨t, runCommand_of_ok he hf c⟩
    | .error _ => exact ⟨_, runCommand_of_error he hf c⟩

theorem exec_toInstr_next (c : Command) (s : State) : ∃ t, exec c.toInstr s = .next t := by
  rw [exec_of_issuedCommand (issuedCommand_toInstr c)]
  exact runCommand_next _ _ s

theorem dispatchCommand_next (w : U32) (s : State) : ∃ t, dispatchCommand w s = .next t := by
  match he : s.errs.err with
  | true => exact ⟨s, dispatchCommand_of_err he w⟩
  | false =>
    match hd : decodeCommand w with
    | .ok c => exact dispatchCommand_of_legal he hd ▸ exec_toInstr_next c s
    | .error _ => exact ⟨_, dispatchCommand_of_illegal he hd⟩

theorem exec_hwr_next (n : BitVec 8) (d : U64) (s : State) : ∃ t, exec (.hwr n d) s = .next t := by
  match hw : (regOfNumber n).map (writeReg s.regs d) with
  | some (.command c) => exact exec_hwr_of_command hw ▸ dispatchCommand_next c s
  | some .status => exact ⟨_, exec_hwr_of_status hw⟩
  | some (.operand _) => exact ⟨_, exec_hwr_of_operand hw⟩
  | some .readOnly => exact ⟨_, exec_hwr_of_badReg (Or.inl hw)⟩
  | none => exact ⟨_, exec_hwr_of_badReg (Or.inr (Option.map_eq_none_iff.1 hw))⟩

/-- A register read gives one response of 64 bits, failing or not (R62, R70). -/
theorem exec_hrd_responses (n : BitVec 8) (s : State) :
    ∃ t v, exec (.hrd n) s = .next t ∧ t.responses = s.responses ++ [.reg v] := by
  match hr : regOfNumber n with
  | some r =>
    obtain rfl := regOfNumber_eq hr
    exact ⟨_, _, exec_hrd_regNumberOf r s, State.respond_responses ..⟩
  | none => exact ⟨_, _, exec_hrd_of_unmapped hr s, State.respond_responses ..⟩

/-- A DMEM read gives one response of 8 bits, failing or not (R62, R73). -/
theorem exec_hrdb_responses (a : U32) (s : State) :
    ∃ t b, exec (.hrdb a) s = .next t ∧ t.responses = s.responses ++ [.byte b] := by
  rcases lt_or_ge a.toNat s.dmemSize with ha | ha
  · exact ⟨_, _, exec_hrdb_of_lt ha, State.respond_responses ..⟩
  · exact ⟨_, _, exec_hrdb_of_ge ha, State.respond_responses ..⟩

theorem exec_hwrb_next (a : U32) (b : Byte) (s : State) : ∃ t, exec (.hwrb a b) s = .next t := by
  rcases lt_or_ge a.toNat s.dmemSize with ha | ha
  · exact ⟨_, exec_hwrb_of_lt ha b⟩
  · exact ⟨_, exec_hwrb_of_ge ha b⟩

/-- Settles O8: a command is discarded, completes or is captured, and each transaction has an equation on both sides of its
check. -/
theorem everyInstructionAnswersANextState : Obligations.EveryInstructionAnswersANextState := by
  unfold Obligations.EveryInstructionAnswersANextState
  intro i s
  cases i using Instr.kindCases with
  | command c => exact exec_toInstr_next c s
  | hrd n =>
    obtain ⟨t, -, ht, -⟩ := exec_hrd_responses n s
    exact ⟨t, ht⟩
  | hwr n d => exact exec_hwr_next n d s
  | hrdb a =>
    obtain ⟨t, -, ht, -⟩ := exec_hrdb_responses a s
    exact ⟨t, ht⟩
  | hwrb a b => exact exec_hwrb_next a b s

/-! ### Responses -/

/-- Only a read answers (R62). -/
theorem exec_responses_of_not_read {i : Instr} {s t : State} (hn : ∀ n, i ≠ .hrd n) (ha : ∀ a, i ≠ .hrdb a)
    (h : exec i s = .next t) : t.responses = s.responses := by
  cases exec_cases h with
  | completed c hc he t ht =>
    obtain ⟨-, -, -, -, hresp, -⟩ := effectOf_frame ht
    exact hresp
  | regRead n r hi => exact absurd hi (hn n)
  | regReadError n hi => exact absurd hi (hn n)
  | byteRead a hi => exact absurd hi (ha a)
  | byteReadError a hi => exact absurd hi (ha a)
  | _ => simp

/-- Settles O25: both reads answer once on each side of their check, and nothing else answers. -/
theorem eachReadGivesOneResponse : Obligations.EachReadGivesOneResponse := by
  unfold Obligations.EachReadGivesOneResponse
  intro i s t h
  cases i with
  | hrd n =>
    obtain ⟨u, v, hu, hresp⟩ := exec_hrd_responses n s
    obtain rfl := Host.Outcome.next.inj (hu.symm.trans h)
    exact ⟨v, hresp⟩
  | hrdb a =>
    obtain ⟨u, b, hu, hresp⟩ := exec_hrdb_responses a s
    obtain rfl := Host.Outcome.next.inj (hu.symm.trans h)
    exact ⟨b, hresp⟩
  | _ => exact exec_responses_of_not_read (by simp) (by simp) h

/-! ### Operand registers -/

/-- Settles O19, by contraposition of `exec_readReg`. -/
theorem onlyRegisterWritesChangeOperandRegisters : Obligations.OnlyRegisterWritesChangeOperandRegisters := by
  unfold Obligations.OnlyRegisterWritesChangeOperandRegisters
  intro i s t h r hr hne
  by_contra hi
  exact hne (exec_readReg hr (not_exists.1 hi) h)

/-! ### RESULT -/

/-- The commands that give a digest (10_state.md R21). -/
def writesResult : Command → Bool
  | .mur32 | .sipfinal | .sip256 | .sip256x => true
  | _ => false

theorem effectOf_result {c : Command} {s t : State} (hc : writesResult c = false) (h : effectOf c s = .ok t) :
    t.result = s.result := by
  cases c with
  | sipinit => obtain rfl := sipinitEffect_cases h; simp
  | sipword => obtain ⟨_, _, rfl⟩ := sipwordEffect_cases h; simp
  | sipbytes => obtain ⟨_, _, rfl⟩ := sipbytesEffect_cases h; simp
  | bip32h => obtain ⟨_, rfl⟩ := bip32hEffect_cases h; simp
  | _ => cases hc

theorem exec_result {i : Instr} {s t : State} (h : exec i s = .next t) :
    t.result = s.result ∨ (s.errs.err = false ∧ ∃ c, issuedCommand i = some c ∧ writesResult c = true) := by
  cases exec_cases h with
  | completed c hc he t ht =>
    match hw : writesResult c with
    | true => exact Or.inr ⟨he, c, hc, hw⟩
    | false => exact Or.inl (effectOf_result hw ht)
  | _ => exact Or.inl (by simp)

/-- Settles O20, by the four commands of `writesResult`. -/
theorem onlyDigestCommandsChangeResult : Obligations.OnlyDigestCommandsChangeResult := by
  unfold Obligations.OnlyDigestCommandsChangeResult
  intro i s t h hne
  obtain ⟨he, c, hc, hw⟩ := (exec_result h).resolve_left hne
  refine ⟨he, ?_⟩
  cases c <;> simp [writesResult, hc] at hw ⊢

/-! ### The context -/

/-- Everything an instruction can do to the context (10_state.md R28, R29). -/
theorem exec_ctx {i : Instr} {s t : State} (h : exec i s = .next t) :
    t.ctx = s.ctx ∨ (s.errs.err = false ∧
      ((issuedCommand i = some .sipinit ∧ t.ctx = SipCtx.init s.regs.k0 s.regs.k1) ∨
        (issuedCommand i = some .sipword ∧ t.ctx = s.ctx.absorbWord s.regs.word) ∨
        (issuedCommand i = some .sipbytes ∧ t.ctx = s.ctx.absorbBytes s.dataBytes))) := by
  cases exec_cases h with
  | completed c hc he t ht =>
    rcases effectOf_ctx ht with ⟨rfl, hctx⟩ | ⟨rfl, -, hctx⟩ | ⟨rfl, -, hctx⟩ | hctx
    · exact Or.inr ⟨he, Or.inl ⟨hc, hctx⟩⟩
    · exact Or.inr ⟨he, Or.inr (Or.inl ⟨hc, hctx⟩)⟩
    · exact Or.inr ⟨he, Or.inr (Or.inr ⟨hc, hctx⟩)⟩
    · exact Or.inl hctx
  | _ => exact Or.inl (by simp)

/-- Settles O21, from the cases of `exec_ctx`. -/
theorem onlyStreamCommandsChangeTheContext : Obligations.OnlyStreamCommandsChangeTheContext := by
  unfold Obligations.OnlyStreamCommandsChangeTheContext
  intro i s t h hne
  obtain ⟨he, hcases⟩ := (exec_ctx h).resolve_left hne
  exact ⟨he, hcases.imp And.left (Or.imp And.left And.left)⟩

/-- Settles O18: SIPINIT sets `valid`, absorbing keeps it, and without a context nothing but SIPINIT writes the context. -/
theorem onlySipinitChangesContextValid : Obligations.OnlySipinitChangesContextValid := by
  unfold Obligations.OnlySipinitChangesContextValid
  intro i s t h
  refine ⟨fun hv => ?_, fun hv hv' => ?_⟩
  · rcases exec_ctx h with hctx | ⟨-, ⟨-, hctx⟩ | ⟨-, hctx⟩ | ⟨-, hctx⟩⟩ <;> rw [hctx]
    · exact hv
    · rfl
    · exact hv
    · rw [SipCtx.absorbBytes_valid, hv]
  · by_contra hi
    rw [exec_ctx_of_invalid hi hv h, hv] at hv'
    cases hv'

/-! ### DMEM and the calls -/

/-- A byte that HWRB changes is a byte of DMEM (R74). -/
theorem lt_dmemSize_of_hwrb_ne {x : U32} {b : Byte} {s t : State} {a : Nat} (h : exec (.hwrb x b) s = .next t)
    (hne : t.readByte a ≠ s.readByte a) : x.toNat < s.dmemSize := by
  by_contra hx
  rw [exec_hwrb_of_ge (not_lt.1 hx)] at h
  rw [← Host.Outcome.next.inj h, State.raiseError_readByte] at hne
  exact hne rfl

/-- Settles O22: the writers are those of `exec_readByte`, and each is inside DMEM by its own check. -/
theorem onlyHwrbAndBip32hChangeDmem : Obligations.OnlyHwrbAndBip32hChangeDmem := by
  unfold Obligations.OnlyHwrbAndBip32hChangeDmem
  intro i s t h a hne
  rcases (exec_readByte h a).resolve_left hne with ⟨x, b, rfl, rfl⟩ | ⟨hi, -, hin, hlow, hhigh⟩
  · exact ⟨lt_dmemSize_of_hwrb_ne h hne, Or.inl ⟨x, b, rfl, rfl⟩⟩
  · obtain ⟨-, -, hdst⟩ := s.bip32InDmem_iff.1 hin
    exact ⟨by omega, Or.inr ⟨hi, hlow, hhigh⟩⟩

/-- Only a BIP32H that completes makes a call (20_memory.md R54). -/
theorem exec_hmacCalls {i : Instr} {s t : State} (h : exec i s = .next t) :
    t.hmacCalls = s.hmacCalls ∨
      (issuedCommand i = some .bip32h ∧ s.errs.err = false ∧ s.bip32InDmem = true) := by
  cases exec_cases h with
  | completed c hc he t ht =>
    by_cases hb : c = .bip32h
    · subst hb
      obtain ⟨hin, -⟩ := bip32hEffect_cases ht
      exact Or.inr ⟨hc, he, hin⟩
    · obtain ⟨-, hcalls⟩ := effectOf_dmem ht hb
      exact Or.inl hcalls
  | _ => exact Or.inl (by simp)

/-- Two instructions that issue one command do the same. -/
theorem exec_eq_of_same_command {i j : Instr} {c : Command} (hi : issuedCommand i = some c) (hj : issuedCommand j = some c)
    (s : State) : exec i s = exec j s := by
  rw [exec_of_issuedCommand hi, exec_of_issuedCommand hj]

/-- Settles O24: under the conditions of R109 BIP32H completes and records its call; without them no instruction records any. -/
theorem oneHmacCallPerSuccessfulBip32h : Obligations.OneHmacCallPerSuccessfulBip32h := by
  unfold Obligations.OneHmacCallPerSuccessfulBip32h
  intro i s t h
  split
  · next hok =>
    obtain ⟨hi, he, hranges⟩ := hok
    have hin := s.bip32InDmem_iff.2 hranges
    rw [exec_eq_of_same_command hi (j := .bip32h) rfl, exec_bip32h he hin] at h
    exact ⟨s.bip32Call, by rw [← Host.Outcome.next.inj h, State.recordCall_hmacCalls, State.memWrite_hmacCalls]⟩
  · next hno =>
    exact (exec_hmacCalls h).resolve_right fun ⟨hi, he, hin⟩ => hno ⟨hi, he, s.bip32InDmem_iff.1 hin⟩

/-! ### The error registers -/

/-- EINFO has at most 33 bits (10_state.md R20). -/
theorem commandInfo_lt (w : U32) : (commandInfo w).toNat < 2 ^ 33 := by
  have := w.isLt
  rw [commandInfo, BitVec.toNat_setWidth_of_le (by decide)]
  omega

theorem transactionInfo_lt (write : Bool) (a : U32) : (transactionInfo write a).toNat < 2 ^ 33 := by
  have := a.isLt
  have hbit : (bit64 write <<< 32).toNat < 2 ^ 33 := by cases write <;> decide
  rw [transactionInfo, BitVec.toNat_or]
  refine Nat.or_lt_two_pow hbit ?_
  rw [BitVec.toNat_setWidth_of_le (by decide)]
  omega

/-- What an instruction can do to ERR, ECAUSE and EINFO. -/
inductive ErrsCase (i : Instr) (e : ErrorRegs) : ErrorRegs → Prop where
  /-- Nothing. -/
  | kept : ErrsCase i e e
  /-- An error is captured, only while ERR = 0 (60_exceptions.md R122, R123). -/
  | captured (he : e.err = false) (cause : Cause) (info : U64) (hinfo : info.toNat < 2 ^ 33) :
      ErrsCase i e ⟨true, cause.code, info⟩
  /-- The host clears the error (R19). -/
  | cleared (hi : clearsError i = true) : ErrsCase i e ErrorRegs.reset

theorem ErrsCase.capture (i : Instr) (e : ErrorRegs) (cause : Cause) {info : U64} (hinfo : info.toNat < 2 ^ 33) :
    ErrsCase i e (e.capture cause info) := by
  match he : e.err with
  | true =>
    rw [ErrorRegs.capture_of_err he]
    exact .kept
  | false =>
    rw [ErrorRegs.capture_of_clear he]
    exact .captured he cause info hinfo

/-- A write to STATUS clears the error or does nothing (R19). -/
theorem ErrsCase.writeStatus (e : ErrorRegs) (d : U64) : ErrsCase (.hwr 1 d) e (e.writeStatus d) := by
  rw [ErrorRegs.writeStatus]
  split
  · next hd => exact .cleared (by simpa [clearsError] using hd)
  · exact .kept

theorem exec_errsCase {i : Instr} {s t : State} (h : exec i s = .next t) : ErrsCase i s.errs t.errs := by
  cases exec_cases h with
  | completed c hc he t ht =>
    obtain ⟨herrs, -⟩ := effectOf_frame ht
    exact herrs ▸ .kept
  | commandError w cause => exact .capture i s.errs cause (commandInfo_lt w)
  | regReadError n => exact .capture i s.errs .badReg (transactionInfo_lt false _)
  | regWriteError n d => exact .capture i s.errs .badReg (transactionInfo_lt true _)
  | byteReadError a => exact .capture i s.errs .hostRange (transactionInfo_lt false a)
  | byteWriteError a b => exact .capture i s.errs .hostRange (transactionInfo_lt true a)
  | statusWrite d hi => exact hi ▸ .writeStatus s.errs d
  | _ => exact .kept

/-- Settles O23, from the cases of `ErrsCase`. -/
theorem onlyCaptureAndClearChangeTheError : Obligations.OnlyCaptureAndClearChangeTheError := by
  unfold Obligations.OnlyCaptureAndClearChangeTheError
  intro i s t h hne
  generalize he' : t.errs = e' at hne ⊢
  cases he' ▸ exec_errsCase h with
  | kept => exact absurd rfl hne
  | captured he => exact Or.inl ⟨he, rfl⟩
  | cleared hi => exact Or.inr ⟨hi, rfl⟩

/-! ### While ERR = 1 -/

/-- `t` has the error, RESULT, the context and the calls of `s` (60_exceptions.md R123, R124). -/
def State.FrozenFrom (s t : State) : Prop :=
  t.errs = s.errs ∧ t.result = s.result ∧ t.ctx = s.ctx ∧ t.hmacCalls = s.hmacCalls

theorem exec_errs_of_err {i : Instr} {s t : State} (he : s.errs.err = true) (hi : clearsError i = false)
    (h : exec i s = .next t) : t.errs = s.errs := by
  by_contra hne
  rcases onlyCaptureAndClearChangeTheError i s t h hne with ⟨hclear, -⟩ | ⟨hclears, -⟩
  · simp [he] at hclear
  · simp [hi] at hclears

theorem exec_frozen {i : Instr} {s t : State} (he : s.errs.err = true) (hi : clearsError i = false)
    (h : exec i s = .next t) : s.FrozenFrom t := by
  have hne : ¬ s.errs.err = false := by simp [he]
  exact ⟨exec_errs_of_err he hi h, (exec_result h).resolve_right fun ⟨hf, _⟩ => hne hf,
    (exec_ctx h).resolve_right fun ⟨hf, _⟩ => hne hf, (exec_hmacCalls h).resolve_right fun ⟨_, hf, _⟩ => hne hf⟩

theorem exec_readByte_of_err {i : Instr} {s t : State} {a : Nat} (he : s.errs.err = true)
    (hi : ∀ x b, i = .hwrb x b → x.toNat ≠ a) (h : exec i s = .next t) : t.readByte a = s.readByte a := by
  rcases exec_readByte h a with hkept | ⟨x, b, hx, hxa⟩ | ⟨-, hf, -⟩
  · exact hkept
  · exact absurd hxa (hi x b hx)
  · simp [he] at hf

theorem runInstrs_frozen {p : List Instr} {s t : State} (he : s.errs.err = true) (hp : ∀ i ∈ p, clearsError i = false)
    (h : runInstrs p s = .next t) : s.FrozenFrom t := by
  refine runInstrs_keeps (P := fun i _ => clearsError i = true) (I := s.FrozenFrom) (fun hi hex hv => ?_)
    (neverAlong_of_forall_mem (fun i hi _ => by simp [hp i hi]) s) h ⟨rfl, rfl, rfl, rfl⟩
  obtain ⟨herrs, hres, hctx, hcalls⟩ := hv
  obtain ⟨herrs', hres', hctx', hcalls'⟩ := exec_frozen (by rwa [herrs]) (by simpa using hi) hex
  exact ⟨herrs'.trans herrs, hres'.trans hres, hctx'.trans hctx, hcalls'.trans hcalls⟩

/-- While ERR = 1 only HWRB writes DMEM (R144). -/
theorem runInstrs_readByte_of_err {p : List Instr} {s t : State} {a : Nat} (he : s.errs.err = true)
    (hp : ∀ i ∈ p, clearsError i = false) (ha : ∀ x b, Instr.hwrb x b ∈ p → x.toNat ≠ a)
    (h : runInstrs p s = .next t) : t.readByte a = s.readByte a := by
  induction p generalizing s with
  | nil =>
    cases h
    rfl
  | cons i p ih =>
    obtain ⟨u, hu, hrun⟩ := runInstrs_cons h
    have herrs := exec_errs_of_err he (hp i List.mem_cons_self) hu
    rw [ih (by rwa [herrs]) (fun j hj => hp j (List.mem_cons_of_mem i hj))
      (fun x b hx => ha x b (List.mem_cons_of_mem i hx)) hrun]
    exact exec_readByte_of_err he (by rintro x b rfl; exact ha x b List.mem_cons_self) hu

/-- Settles O32: no instruction but a clear ends the freeze, and HWRB is the only one that still writes DMEM. -/
theorem errorFreezesTheCoreUntilCleared : Obligations.ErrorFreezesTheCoreUntilCleared := by
  unfold Obligations.ErrorFreezesTheCoreUntilCleared
  intro p s t he hp h
  obtain ⟨herrs, hres, hctx, hcalls⟩ := runInstrs_frozen he hp h
  exact ⟨herrs, hres, hctx, hcalls, fun a ha => runInstrs_readByte_of_err he hp ha h⟩

end Sys2Proof.Machine
end

section
/-! A context that meets the invariant of R28 (42_siphash_stream.md R90 to R93): it is a group boundary that has absorbed its
pending bytes, so the closed form holds from it too; what the streaming commands leave, and that absorbing keeps the invariant. -/

namespace Sys2Proof.Machine

/-! ### Words of few bytes -/

theorem leBytes_toNat_lt (m : List Byte) : (leBytes m).toNat < 2 ^ (8 * m.length) := by
  refine Nat.lt_pow_two_of_testBit _ fun i hi => ?_
  rw [BitVec.testBit_toNat]
  by_cases h : i < 64
  · rw [leBytes, getLsbD_leFrom m 0 h, Nat.sub_zero, List.getD_eq_default _ _ (by omega)]
    simp
  · exact BitVec.getLsbD_of_ge _ _ (by omega)

theorem getLsbD_eq_false_of_toNat_lt {w n i : Nat} {x : BitVec w} (hx : x.toNat < 2 ^ n) (hi : n ≤ i) :
    x.getLsbD i = false := by
  rw [← BitVec.testBit_toNat]
  exact Nat.testBit_lt_two_pow (hx.trans_le (Nat.pow_le_pow_right (by decide) hi))

/-- A word below `2 ^ (8 * p)` is the little-endian word of its first `p` bytes. -/
theorem leBytes_take_wordBytes {w : U64} {p : Nat} (hw : w.toNat < 2 ^ (8 * p)) : leBytes ((wordBytes w).take p) = w := by
  refine BitVec.eq_of_getLsbD_eq fun i hi => ?_
  have hfull := congrArg (BitVec.getLsbD · i) (leBytes_wordBytes w)
  simp only [leBytes, getLsbD_leFrom _ 0 hi, Nat.sub_zero] at hfull ⊢
  by_cases hp : i / 8 < p
  · rw [← hfull]
    simp [List.getD_eq_getElem?_getD, List.getElem?_take_of_lt hp]
  · have hout : w.getLsbD i = false := getLsbD_eq_false_of_toNat_lt hw (by omega)
    rw [List.getD_eq_default _ _ (by rw [List.length_take]; omega), hout]
    simp

/-! ### The invariant -/

/-- R28 of one context: the tail holds exactly the pending bytes. -/
def SipCtx.TailInv (c : SipCtx) : Prop :=
  c.tail.toNat < 2 ^ (8 * c.pending)

theorem State.ctxInv_iff (s : State) : s.CtxInv ↔ s.ctx.TailInv := Iff.rfl

theorem SipCtx.tailInv_of_tail_eq_zero {c : SipCtx} (h : c.tail = 0) : c.TailInv := by
  rw [TailInv, h]
  exact Nat.two_pow_pos _

theorem SipCtx.afterBytes_tailInv {c : SipCtx} (hp : c.pending = 0) (m : List Byte) : (c.afterBytes m).TailInv := by
  rw [TailInv, afterBytes_pending hp, ← lastGroup_length]
  exact leBytes_toNat_lt (lastGroup m)

/-- The group boundary that `c` was before its pending bytes. -/
def SipCtx.boundary (c : SipCtx) : SipCtx :=
  { c with count := c.count - BitVec.ofNat 64 c.pending, tail := 0 }

/-- The bytes of the unfinished group, first byte first. -/
def SipCtx.pendingBytes (c : SipCtx) : List Byte :=
  (wordBytes c.tail).take c.pending

theorem SipCtx.pending_lt (c : SipCtx) : c.pending < 8 :=
  Nat.mod_lt _ (by decide)

@[simp] theorem SipCtx.pendingBytes_length (c : SipCtx) : c.pendingBytes.length = c.pending := by
  have := c.pending_lt
  rw [pendingBytes, List.length_take, wordBytes_length]
  omega

theorem SipCtx.boundary_pending (c : SipCtx) : c.boundary.pending = 0 := by
  have hback : c.boundary.count + BitVec.ofNat 64 c.pending = c.count := BitVec.sub_add_cancel ..
  have hmod := toNat_add_ofNat_mod_eight c.boundary.count c.pending
  rw [hback] at hmod
  simp only [pending] at hmod ⊢
  omega

/-- The pending bytes fill no group, so absorbing them at the boundary leaves the context itself. -/
theorem SipCtx.boundary_absorbBytes_pendingBytes {c : SipCtx} (h : c.TailInv) :
    c.boundary.absorbBytes c.pendingBytes = c := by
  have hshort : c.pendingBytes.length < 8 := by simpa using c.pending_lt
  have hcount : c.boundary.count + BitVec.ofNat 64 c.pending = c.count := BitVec.sub_add_cancel ..
  have htail : leBytes c.pendingBytes = c.tail := leBytes_take_wordBytes h
  rw [absorbBytes_eq_afterBytes c.boundary_pending rfl, afterBytes, compressGroups_of_length_lt hshort,
    lastGroup_of_length_lt hshort, pendingBytes_length, hcount, htail, boundary]

/-- The closed form of R97 with bytes pending: the new bytes go behind the pending ones. -/
theorem SipCtx.absorbBytes_eq_boundary_afterBytes {c : SipCtx} (h : c.TailInv) (m : List Byte) :
    c.absorbBytes m = c.boundary.afterBytes (c.pendingBytes ++ m) := by
  rw [← absorbBytes_eq_afterBytes c.boundary_pending rfl, absorbBytes_append, boundary_absorbBytes_pendingBytes h]

theorem SipCtx.absorbBytes_tailInv {c : SipCtx} (h : c.TailInv) (m : List Byte) : (c.absorbBytes m).TailInv := by
  rw [absorbBytes_eq_boundary_afterBytes h]
  exact afterBytes_tailInv c.boundary_pending _

/-- A word at a group boundary leaves count and tail at one (R90). -/
theorem SipCtx.absorbWord_tailInv {c : SipCtx} (h : c.TailInv) (w : U64) : (c.absorbWord w).TailInv := by
  rw [TailInv, absorbWord_pending]
  exact h

/-- No instruction breaks the invariant of R28. -/
theorem exec_ctxInv {i : Instr} {s t : State} (hs : s.CtxInv) (h : exec i s = .next t) : t.CtxInv := by
  rw [State.ctxInv_iff] at hs ⊢
  rcases exec_ctx h with hctx | ⟨-, ⟨-, hctx⟩ | ⟨-, hctx⟩ | ⟨-, hctx⟩⟩ <;> rw [hctx]
  · exact hs
  · exact SipCtx.tailInv_of_tail_eq_zero rfl
  · exact SipCtx.absorbWord_tailInv hs _
  · exact SipCtx.absorbBytes_tailInv hs _

/-! ### The streaming commands -/

/-- Settles O49: the closed form from the boundary before the pending bytes. -/
theorem sipbytesAbsorbsWholeGroups : Obligations.SipbytesAbsorbsWholeGroups := by
  unfold Obligations.SipbytesAbsorbsWholeGroups
  intro s hinv he hv hr pending m
  have hlength : m.length = s.ctx.pending + s.regs.len.toNat := by
    rw [List.length_append, State.memRead_length]
    exact congrArg (· + _) s.ctx.pendingBytes_length
  have hcount : s.ctx.boundary.count + BitVec.ofNat 64 m.length = s.ctx.count + s.regs.len.setWidth 64 := by
    rw [hlength, BitVec.ofNat_add, ← BitVec.add_assoc, SipCtx.boundary, BitVec.sub_add_cancel,
      BitVec.ofNat_toNat]
  have hctx : s.ctx.absorbBytes (s.memRead s.regs.src.toNat s.regs.len.toNat) = s.ctx.boundary.afterBytes m :=
    SipCtx.absorbBytes_eq_boundary_afterBytes hinv _
  rw [exec_sipbytes he hv hr, hctx, SipCtx.afterBytes, hcount, State.withCtx, SipCtx.boundary, hv]

/-- Settles O47: the fresh context is written whole. -/
theorem sipinitStartsAFreshContext : Obligations.SipinitStartsAFreshContext := by
  unfold Obligations.SipinitStartsAFreshContext
  intro s he
  rw [exec_sipinit he, State.withCtx, SipCtx.init, sipIV]

/-- Settles O48: with a context at a group boundary SIPWORD completes. -/
theorem sipwordCompressesOneWord : Obligations.SipwordCompressesOneWord := by
  unfold Obligations.SipwordCompressesOneWord
  intro s he hv hp
  rw [exec_sipword he hv hp, State.withCtx, SipCtx.absorbWord]

/-- Settles O50: with a context SIPFINAL completes, and the digest is the only write. -/
theorem sipfinalGivesTheDigest : Obligations.SipfinalGivesTheDigest := by
  unfold Obligations.SipfinalGivesTheDigest
  intro s he hv
  rw [exec_sipfinal he hv, State.withResult, SipCtx.digest]

@[simp] theorem State.withResult_withResult (s : State) (v w : U64) : (s.withResult v).withResult w = s.withResult w := by
  rw [State.withResult, State.withResult, State.withResult]

/-- Settles O51: the second SIPFINAL takes the branch of the first, on the same context. -/
theorem sipfinalTwiceGivesTheSameResult : Obligations.SipfinalTwiceGivesTheSameResult := by
  unfold Obligations.SipfinalTwiceGivesTheSameResult
  intro s t h
  rw [exec_of_issuedCommand rfl] at h ⊢
  rcases runCommand_cases h with ⟨he, rfl⟩ | ⟨he, hok⟩ | ⟨e, he, herror, rfl⟩
  · exact ⟨h, rfl⟩
  · obtain ⟨hv, rfl⟩ := sipfinalEffect_cases hok
    have hagain := sipfinalEffect_of_valid (s := s.withResult s.ctx.digest) hv
    rw [State.withResult_ctx, State.withResult_withResult] at hagain
    exact ⟨runCommand_of_ok (s := s.withResult s.ctx.digest) he hagain _, State.withResult_ctx ..⟩
  · refine ⟨runCommand_of_err ?_ _ _, State.raiseError_ctx ..⟩
    rw [State.raiseError_of_clear he]

/-! ### SIP256X as a stream -/

/-- R99: SIP256X is the closed form of R97 over the bytes of the limbs and of EXTRA. -/
theorem sip256xDigest_eq_sipHash24 (r : OperandRegs) :
    sip256xDigest r = sipHash24 r.k0 r.k1 (wordBytes r.val0 ++ wordBytes r.val1 ++ wordBytes r.val2 ++ wordBytes r.val3 ++
      wordBytes32 r.extra) := by
  have hlimbs : wordBytes r.val0 ++ wordBytes r.val1 ++ wordBytes r.val2 ++ wordBytes r.val3 =
      [r.val0, r.val1, r.val2, r.val3].flatMap wordBytes := by simp
  rw [hlimbs, ← SipCtx.digest_init_absorbBytes, SipCtx.absorbBytes_append, SipCtx.absorbBytes_flatMap_wordBytes rfl rfl,
    SipCtx.foldl_absorbWord_limbs, SipCtx.absorbBytes_ofLimbs_wordBytes32, SipCtx.digest_ofLimbs_extra]

/-- Settles O54: the digest is that of a fresh context that has absorbed the limbs and EXTRA. -/
theorem sip256xIsSipHash24OfTheLimbsAndExtra : Obligations.Sip256xIsSipHash24OfTheLimbsAndExtra := by
  unfold Obligations.Sip256xIsSipHash24OfTheLimbsAndExtra
  intro s he
  rw [exec_sip256x he, State.withResult, sip256xDigest_eq_sipHash24]

end Sys2Proof.Machine
end

section
/-! What one step can do (20_memory.md R50, 70_reset_and_hazards.md R132 to R135), said once, and the invariants that every step
keeps. -/

namespace Sys2Proof.Machine

/-! ### Transactions -/

theorem step_of_transact {s : State} {t : Transaction} {rest : List HostEvent} {i : Instr}
    (hport : s.port = .transact t :: rest) (hd : decodeTransaction t = .ok i) : step s = exec i (s.withPort rest) := by
  simp only [step, State.takeEvent, hport, hd]

/-- Settles O5: the entry of the port decodes as the frame of its transaction. -/
theorem stepRunsTheDecodedTransaction : Obligations.StepRunsTheDecodedTransaction := by
  unfold Obligations.StepRunsTheDecodedTransaction
  exact fun s t rest i hport hd => step_of_transact hport hd

/-- Issuing a command is a write of its word to CMD (30_encoding.md R67). -/
theorem decodeTransaction_issue_toInstr (c : Command) :
    decodeTransaction c.toInstr.issue = .ok (.hwr 0 ((commandWord c).setWidth 64)) := by
  rw [Instr.issue, encode_toInstr]
  exact decode_registerWrite 0 ((commandWord c).setWidth 64)

theorem issuedCommand_hwr_commandWord (c : Command) :
    issuedCommand (.hwr 0 ((commandWord c).setWidth 64)) = some c := by
  simp [issuedCommand, decodeCommand_commandWord, Except.toOption]

theorem step_of_issued_command {s : State} {c : Command} {rest : List HostEvent}
    (hport : s.port = .transact c.toInstr.issue :: rest) : step s = exec c.toInstr (s.withPort rest) := by
  rw [step_of_transact hport (decodeTransaction_issue_toInstr c),
    exec_eq_of_same_command (issuedCommand_hwr_commandWord c) (issuedCommand_toInstr c)]

/-- Settles O6: a command is issued as a write of its word to CMD, which issues it; a transaction is issued as it is. -/
theorem stepRunsTheIssuedInstruction : Obligations.StepRunsTheIssuedInstruction := by
  unfold Obligations.StepRunsTheIssuedInstruction
  intro s i rest hport
  cases i using Instr.kindCases with
  | command c => exact step_of_issued_command hport
  | hrd n => exact step_of_transact hport (decode_registerRead n)
  | hwr n d => exact step_of_transact hport (decode_registerWrite n d)
  | hrdb a => exact step_of_transact hport (decode_byteRead a)
  | hwrb a b => exact step_of_transact hport (decode_byteWrite a b)

/-- Settles O7: with an empty port the event taken is none. -/
theorem stepWaitsForTheHost : Obligations.StepWaitsForTheHost := by
  unfold Obligations.StepWaitsForTheHost
  intro s hport
  simp only [step, State.takeEvent, hport]

/-! ### Reset -/

theorem step_of_resetDuring {s : State} {c : U32} {held : Option Transaction} {rest : List HostEvent}
    (hport : s.port = .resetDuring c held :: rest) : step s = .next ((s.withPort rest).abandonCommand c).resetCore := by
  simp only [step, State.takeEvent, hport]

/-- Abandoning a command touches neither port nor responses (R134). -/
theorem State.abandonCommand_frame (s : State) (c : U32) :
    (s.abandonCommand c).port = s.port ∧ (s.abandonCommand c).responses = s.responses ∧
      (s.abandonCommand c).dmemSize = s.dmemSize := by
  rcases s.abandonCommand_cases c with h | ⟨-, -, h⟩ <;> simp [h]

/-- Abandoning a command changes DMEM in the output range of a BIP32H only (R134). -/
theorem State.abandonCommand_readByte {s : State} {c : U32} {a : Nat}
    (h : c = commandWord .bip32h → a < s.regs.dst.toNat ∨ s.regs.dst.toNat + 64 ≤ a) :
    (s.abandonCommand c).readByte a = s.readByte a := by
  rcases s.abandonCommand_cases c with hkept | ⟨-, hc, hdrawn⟩
  · rw [hkept]
  · rw [hdrawn, State.readByte_drawBytes s _ _ a (h hc)]

/-- Settles O11: a reset keeps DMEM, and the command it abandons has changed nothing but the output range of a BIP32H. -/
theorem resetDuringACommandAbandonsIt : Obligations.ResetDuringACommandAbandonsIt := by
  unfold Obligations.ResetDuringACommandAbandonsIt
  refine ⟨fun s rest hport => ⟨_, step_of_reset hport, State.resetCore_port _, fun a => ?_⟩, fun s c held rest hport => ?_⟩
  · rw [State.resetCore_readByte, State.withPort_readByte]
  · obtain ⟨hrest, hresp, -⟩ := (s.withPort rest).abandonCommand_frame c
    refine ⟨_, step_of_resetDuring hport, hrest, hresp, State.resetCore_readReg _, State.resetCore_ctx _, fun hc a => ?_,
      fun hc a ha => ?_⟩
    · exact State.abandonCommand_readByte fun hbip => absurd hbip hc
    · exact State.abandonCommand_readByte fun _ => ha

/-- The reset state is one that a reset leaves. -/
theorem State.resetCore_reset : State.reset.resetCore = State.reset := rfl

/-- Settles O12: the reset state reads as any state does after a reset. -/
theorem resetStateRegisters : Obligations.ResetStateRegisters := by
  unfold Obligations.ResetStateRegisters
  refine ⟨fun r => ?_, rfl⟩
  rw [← State.resetCore_reset, State.resetCore_readReg]

theorem State.resetCore_errInv (s : State) : s.resetCore.ErrInv := by
  rw [State.ErrInv, State.resetCore_errs]
  decide

/-- Settles O13: DMEM holds no written byte, and what a reset leaves meets the other invariants. -/
theorem resetStateMeetsTheInvariants : Obligations.ResetStateMeetsTheInvariants := by
  unfold Obligations.ResetStateMeetsTheInvariants
  have hsize : State.reset.SizeInv := by decide
  have hmem : State.reset.MemInv := ⟨List.Pairwise.nil, by simp [State.reset]⟩
  exact ⟨hsize, hmem, State.resetCore_ctxInv State.reset, State.resetCore_errInv State.reset⟩

/-! ### What every step keeps -/

/-- Everything a step that answers can do. -/
inductive StepCase (s : State) : State → Prop where
  /-- Nothing is issued (R135). -/
  | idle : StepCase s s
  /-- A transaction runs as its instruction (R50). -/
  | ran (i : Instr) (rest : List HostEvent) (t : State) (h : exec i (s.withPort rest) = .next t) : StepCase s t
  /-- A reset between commands (R132). -/
  | reset (rest : List HostEvent) : StepCase s (s.withPort rest).resetCore
  /-- A reset during a command (R134). -/
  | abandoned (c : U32) (rest : List HostEvent) : StepCase s ((s.withPort rest).abandonCommand c).resetCore

theorem step_cases {s t : State} (h : step s = .next t) : StepCase s t := by
  rw [step] at h
  rcases s.takeEvent_cases with ⟨-, htake⟩ | ⟨_, rest, i, -, -, htake⟩ | ⟨_, _, _, -, -, htake⟩ | ⟨rest, -, htake⟩ |
    ⟨c, _, rest, -, htake⟩ <;> simp only [htake] at h
  · exact Host.Outcome.next.inj h ▸ .idle
  · exact .ran i rest t h
  · cases h
  · exact Host.Outcome.next.inj h ▸ .reset rest
  · exact Host.Outcome.next.inj h ▸ .abandoned c rest

/-- What instructions, resets and abandoned commands keep, and the port does not matter to, every step keeps. -/
theorem step_keeps {I : State → Prop} (hport : ∀ {s} p, I s → I (s.withPort p))
    (hexec : ∀ {i s t}, I s → exec i s = .next t → I t) (habandon : ∀ {s} c, I s → I (s.abandonCommand c))
    (hreset : ∀ {s}, I s → I s.resetCore) {s t : State} (hs : I s) (h : step s = .next t) : I t := by
  cases step_cases h with
  | idle => exact hs
  | ran i rest t h => exact hexec (hport rest hs) h
  | reset rest => exact hreset (hport rest hs)
  | abandoned c rest => exact hreset (habandon c (hport rest hs))

/-- Settles O17: neither an instruction nor a reset writes the size. -/
theorem stepKeepsDmemSize : Obligations.StepKeepsDmemSize := by
  unfold Obligations.StepKeepsDmemSize
  intro s t h
  refine step_keeps (I := fun u => u.dmemSize = s.dmemSize) (fun p hu => hu) (fun hu hex => (exec_dmemSize hex).trans hu)
    (fun {u} c hu => ?_) (fun hu => hu) rfl h
  obtain ⟨-, -, hsize⟩ := u.abandonCommand_frame c
  exact hsize.trans hu

/-! ### The list of written bytes -/

/-- A write inside DMEM keeps the list canonical and inside DMEM. -/
theorem State.MemInv.memWrite {s : State} (h : s.MemInv) {a : Nat} {bs : List Byte}
    (hr : ∀ x, a ≤ x → x < a + bs.length → x < s.dmemSize) : (s.memWrite a bs).MemInv := by
  obtain ⟨hwf, hlt⟩ := h
  refine ⟨Memory.setMany_wf hwf a bs, fun c hc => ?_⟩
  rcases Memory.mem_setMany_key hc with ⟨hlow, hhigh⟩ | hold
  · exact hr c.1 hlow hhigh
  · exact hlt c hold

theorem State.MemInv.writeByte {s : State} (h : s.MemInv) {a : Nat} (ha : a < s.dmemSize) (b : Byte) :
    (s.writeByte a b).MemInv :=
  h.memWrite (bs := [b]) fun x hlow hhigh => by
    rw [List.length_singleton] at hhigh
    omega

/-- The bytes drawn are cut off at the end of DMEM (R134). -/
theorem State.MemInv.drawBytes {s : State} (h : s.MemInv) (a n : Nat) : (s.drawBytes a n).MemInv := by
  refine h.memWrite (a := a) fun x hlow hhigh => ?_
  rw [List.length_map, List.length_range] at hhigh
  omega

theorem State.MemInv.abandonCommand {s : State} (c : U32) (h : s.MemInv) : (s.abandonCommand c).MemInv := by
  rcases s.abandonCommand_cases c with hkept | ⟨-, -, hdrawn⟩
  · rwa [hkept]
  · rw [hdrawn]
    exact h.drawBytes _ _

/-- BIP32H and HWRB write inside DMEM, and nothing else writes it. -/
theorem exec_memInv {i : Instr} {s t : State} (hs : s.MemInv) (h : exec i s = .next t) : t.MemInv := by
  have hsize := exec_dmemSize h
  cases exec_cases h with
  | completed c hc he t ht =>
    by_cases hb : c = .bip32h
    · subst hb
      obtain ⟨hin, rfl⟩ := bip32hEffect_cases ht
      obtain ⟨-, -, hdst⟩ := s.bip32InDmem_iff.1 hin
      have hwritten : (s.memWrite s.regs.dst.toNat s.bip32Call.answer.toList).MemInv :=
        hs.memWrite fun x _ hx => by
          rw [Vector.length_toList] at hx
          omega
      exact hwritten.of_eq (State.recordCall_dmem ..) (State.recordCall_dmemSize ..)
    · obtain ⟨hdmem, -⟩ := effectOf_dmem ht hb
      exact hs.of_eq hdmem hsize
  | byteWrite a b hi ha => exact hs.writeByte ha b
  | _ => exact hs.of_eq (by simp) hsize

/-- Settles O14: an instruction and an abandoned BIP32H write inside DMEM, and reset leaves the list. -/
theorem stepKeepsDmemCanonical : Obligations.StepKeepsDmemCanonical := by
  unfold Obligations.StepKeepsDmemCanonical
  intro s t
  exact step_keeps (I := State.MemInv) (fun p hs => hs.of_eq (State.withPort_dmem ..) (State.withPort_dmemSize ..))
    exec_memInv State.MemInv.abandonCommand
    (fun hs => hs.of_eq (State.resetCore_dmem _) (State.resetCore_dmemSize _))

/-! ### The context and the error -/

/-- Settles O15: every absorption ends in a closed form whose tail is that of the last group; reset clears the context. -/
theorem stepKeepsTheContextInvariant : Obligations.StepKeepsTheContextInvariant := by
  unfold Obligations.StepKeepsTheContextInvariant
  intro s t
  refine step_keeps (I := State.CtxInv) (fun p hs => hs.of_eq (State.withPort_ctx ..)) exec_ctxInv (fun {u} c hu => ?_)
    (fun _ => State.resetCore_ctxInv _)
  rcases u.abandonCommand_cases c with h | ⟨-, -, h⟩ <;> exact hu.of_eq (by simp [h])

/-- A capture writes one of the six causes and at most 33 bits of EINFO, a clear writes zeros (R19, R20, R115). -/
theorem exec_errInv {i : Instr} {s t : State} (hs : s.ErrInv) (h : exec i s = .next t) : t.ErrInv := by
  have hcase := exec_errsCase h
  rw [State.ErrInv] at hs ⊢
  generalize t.errs = e at hcase ⊢
  cases hcase with
  | kept => exact hs
  | captured he cause info hinfo => exact ⟨by simp, fun _ => cause.code_range, hinfo⟩
  | cleared hi => decide

/-- Settles O16: the three cases of an instruction, and reset, which clears the error. -/
theorem stepKeepsTheErrorInvariant : Obligations.StepKeepsTheErrorInvariant := by
  unfold Obligations.StepKeepsTheErrorInvariant
  intro s t
  refine step_keeps (I := State.ErrInv) (fun p hs => hs.of_eq (State.withPort_errs ..)) exec_errInv (fun {u} c hu => ?_)
    (fun _ => State.resetCore_errInv _)
  rcases u.abandonCommand_cases c with h | ⟨-, -, h⟩ <;> exact hu.of_eq (by simp [h])

end Sys2Proof.Machine
end

section
/-! SIPROUND as a bijection (41_primitives.md R80), and MUR32's loop as the indexed closed form (44_murmur3.md R103 to R106). -/

namespace Sys2Proof.Machine

/-! ### SIPROUND -/

/-- A rotation is undone by the rotation through the rest of the width. -/
theorem rotl64_rotl64 (x : U64) {b c : Nat} (h : b + c = 64) : rotl64 (rotl64 x b) c = x := by
  refine BitVec.eq_of_getLsbD_eq fun i hi => ?_
  have hback : ((i + 64 - c) % 64 + 64 - b) % 64 = i := by omega
  rw [getLsbD_rotl64 _ (by omega) hi, getLsbD_rotl64 _ (by omega) (Nat.mod_lt _ (by decide)), hback]

/-- The fourteen statements of SIPROUND undone, the last one first. -/
def sipUnround (s : SipState) : SipState :=
  let v2 := rotl64 s.v2 32
  let v1 := s.v1 ^^^ v2
  let v1 := rotl64 v1 47
  let v2 := v2 - v1
  let v3 := s.v3 ^^^ s.v0
  let v3 := rotl64 v3 43
  let v0 := s.v0 - v3
  let v3 := v3 ^^^ v2
  let v3 := rotl64 v3 48
  let v2 := v2 - v3
  let v0 := rotl64 v0 32
  let v1 := v1 ^^^ v0
  let v1 := rotl64 v1 51
  let v0 := v0 - v1
  { v0 := v0, v1 := v1, v2 := v2, v3 := v3 }

/-- Each statement undoes its counterpart: an addition, an XOR with a word still at hand, or a rotation. -/
theorem sipUnround_sipRound (s : SipState) : sipUnround (sipRound s) = s := by
  simp [sipUnround, sipRound, rotl64_rotl64]

theorem sipRound_sipUnround (s : SipState) : sipRound (sipUnround s) = s := by
  simp [sipUnround, sipRound, rotl64_rotl64]

/-- Settles O42: `sipUnround` is the inverse on both sides. -/
theorem sipRoundIsABijection : Obligations.SipRoundIsABijection := by
  unfold Obligations.SipRoundIsABijection
  exact Function.bijective_iff_has_inverse.2 ⟨sipUnround, sipUnround_sipRound, sipRound_sipUnround⟩

/-! ### The blocks of MUR32 -/

/-- R104: the blocks of `d` by their index, into `h`. -/
def murBlocksIndexed (h : U32) (d : List Byte) : U32 :=
  (List.range (d.length / 4)).foldl (fun h i => murBlock h ((leBytes (slice d (4 * i) 4)).setWidth 32)) h

/-- A little-endian word of four bytes, cut to 32 bits, is their `LE32` (R82). -/
theorem setWidth_leBytes_of_four (b0 b1 b2 b3 : Byte) : (leBytes [b0, b1, b2, b3]).setWidth 32 = le32 b0 b1 b2 b3 := by
  rw [← setWidth_le32, BitVec.setWidth_setWidth_of_le _ (by decide), BitVec.setWidth_eq]

theorem murBlocksIndexed_of_length_lt {d : List Byte} (hd : d.length < 4) (h : U32) : murBlocksIndexed h d = h := by
  rw [murBlocksIndexed, Nat.div_eq_of_lt hd, List.range_zero, List.foldl_nil]

/-- The first block, then the others, their indices shifted by one. -/
theorem murBlocksIndexed_cons (h : U32) (b0 b1 b2 b3 : Byte) (rest : List Byte) :
    murBlocksIndexed h (b0 :: b1 :: b2 :: b3 :: rest) = murBlocksIndexed (murBlock h (le32 b0 b1 b2 b3)) rest := by
  have hblocks : (b0 :: b1 :: b2 :: b3 :: rest).length / 4 = rest.length / 4 + 1 := by
    simp only [List.length_cons]
    omega
  have hfirst : slice (b0 :: b1 :: b2 :: b3 :: rest) (4 * 0) 4 = [b0, b1, b2, b3] := rfl
  have hlater : ∀ i, slice (b0 :: b1 :: b2 :: b3 :: rest) (4 * (i + 1)) 4 = slice rest (4 * i) 4 := fun i => rfl
  rw [murBlocksIndexed, hblocks, List.range_succ_eq_map, List.foldl_cons, List.foldl_map, hfirst, setWidth_leBytes_of_four]
  simp only [Nat.succ_eq_add_one, hlater]
  rw [murBlocksIndexed]

/-- One turn of the loop takes four bytes. (The left side is evaluated by itself: a bare `rfl` would first compare the two hashes,
and unfold the arithmetic of `murBlock`.) -/
theorem murBlocks_cons (h : U32) (b0 b1 b2 b3 : Byte) (rest : List Byte) :
    murBlocks h (b0 :: b1 :: b2 :: b3 :: rest) = murBlocks (murBlock h (le32 b0 b1 b2 b3)) rest := by
  conv_lhs => whnf

/-- R103: the loop over the bytes gives the indexed blocks, and leaves the bytes after the last full one. -/
theorem murBlocks_eq (h : U32) (d : List Byte) : murBlocks h d = (murBlocksIndexed h d, d.drop (4 * (d.length / 4))) := by
  induction h, d using murBlocks.induct with
  | case1 h b0 b1 b2 b3 rest ih =>
    have hblocks : 4 * ((b0 :: b1 :: b2 :: b3 :: rest).length / 4) = 4 * (rest.length / 4) + 4 := by
      simp only [List.length_cons]
      omega
    rw [murBlocks_cons, ih, murBlocksIndexed_cons, hblocks]
    simp only [List.drop_succ_cons]
  | case2 h d hd =>
    have hshort : d.length < 4 := by
      match d with
      | [] | [_] | [_, _] | [_, _, _] => simp
      | b0 :: b1 :: b2 :: b3 :: rest => exact absurd rfl (hd b0 b1 b2 b3 rest)
    rw [murBlocks_of_length_lt hshort, murBlocksIndexed_of_length_lt hshort, Nat.div_eq_of_lt hshort]
    rfl

/-! ### The tail of MUR32 -/

/-- A byte behind fewer than four others is XORed in at its place, where the word is still 0. -/
theorem setWidth_leBytes_append_singleton {m : List Byte} (hm : m.length < 4) (b : Byte) :
    (leBytes (m ++ [b])).setWidth 32 = (leBytes m).setWidth 32 ^^^ b.setWidth 32 <<< (8 * m.length) := by
  refine BitVec.eq_of_getLsbD_eq fun i hi => ?_
  have hwide : i < 64 := by omega
  simp only [leBytes_append_singleton, BitVec.getLsbD_setWidth, BitVec.getLsbD_or, BitVec.getLsbD_xor,
    BitVec.getLsbD_shiftLeft, hi, hwide, decide_true, Bool.true_and]
  by_cases hlow : i < 8 * m.length
  · simp [hlow]
  · have hzero : (leBytes m).getLsbD i = false :=
      getLsbD_eq_false_of_toNat_lt (leBytes_toNat_lt m) (not_lt.1 hlow)
    have hplace : i - 8 * m.length < 32 ∧ i - 8 * m.length < 64 := by omega
    simp [hzero, hplace]

theorem murTail_pair (h : U32) (b0 b1 : Byte) :
    murTail h [b0, b1] = h ^^^ murMix (b1.setWidth 32 <<< 8 ^^^ b0.setWidth 32) := by
  simp [murTail]

theorem murTail_triple (h : U32) (b0 b1 b2 : Byte) :
    murTail h [b0, b1, b2] = h ^^^ murMix (b2.setWidth 32 <<< 16 ^^^ b1.setWidth 32 <<< 8 ^^^ b0.setWidth 32) := by
  simp [murTail]

/-- R105: the tail of at most three bytes is mixed as their little-endian word; an empty one mixes 0, which changes nothing. -/
theorem murTail_eq {t : List Byte} (ht : t.length < 4) (h : U32) : murTail h t = h ^^^ murMix ((leBytes t).setWidth 32) := by
  have hnil : (leBytes []).setWidth 32 = (0 : U32) := rfl
  have hone : ∀ b0, (leBytes [b0]).setWidth 32 = (b0.setWidth 32 : U32) := fun b0 => by
    simpa [hnil] using setWidth_leBytes_append_singleton (m := []) (by decide) b0
  have htwo : ∀ b0 b1, (leBytes [b0, b1]).setWidth 32 = (b0.setWidth 32 ^^^ b1.setWidth 32 <<< 8 : U32) := fun b0 b1 => by
    simpa [hone] using setWidth_leBytes_append_singleton (m := [b0]) (by simp) b1
  have hthree : ∀ b0 b1 b2, (leBytes [b0, b1, b2]).setWidth 32 =
      (b0.setWidth 32 ^^^ b1.setWidth 32 <<< 8 ^^^ b2.setWidth 32 <<< 16 : U32) := fun b0 b1 b2 => by
    simpa [htwo] using setWidth_leBytes_append_singleton (m := [b0, b1]) (by simp) b2
  match t with
  | [] =>
    rw [murTail_nil, hnil, murMix_zero]
    exact BitVec.xor_zero.symm
  | [b0] => rw [murTail_singleton, hone]
  | [b0, b1] => rw [murTail_pair, htwo, BitVec.xor_comm (b1.setWidth 32 <<< 8)]
  | [b0, b1, b2] =>
    rw [murTail_triple, hthree, BitVec.xor_comm (b2.setWidth 32 <<< 16 ^^^ _), BitVec.xor_comm (b2.setWidth 32 <<< 16),
      BitVec.xor_assoc]
  | _ :: _ :: _ :: _ :: _ => simp only [List.length_cons] at ht; omega

theorem murmur3_eq_murmurReference (seed : U32) (d : List Byte) : murmur3 seed d = murmurReference seed d := by
  have htail : (d.drop (4 * (d.length / 4))).length < 4 := by
    rw [List.length_drop]
    omega
  rw [murmur3, murBlocks_eq]
  simp only [murTail_eq htail, murmurReference, murBlocksIndexed]

/-- Settles O44: the byte loop and the tail give the indexed closed form. -/
theorem mur32ComputesTheReferenceDigest : Obligations.Mur32ComputesTheReferenceDigest := by
  unfold Obligations.Mur32ComputesTheReferenceDigest
  intro s he hr
  rw [exec_mur32 he hr, murmur3_eq_murmurReference, State.withResult]

end Sys2Proof.Machine
end

section
/-! The STATUS word (10_state.md R18), the edges of the range check (20_memory.md R45), LOADB (30_encoding.md R66), and that
BIP32H is deterministic (45_bip32.md R113). -/

namespace Sys2Proof.Machine

/-! ### STATUS -/

theorem getLsbD_bit64 (b : Bool) (k : Nat) : (bit64 b).getLsbD k = (decide (k = 0) && b) := by
  cases k <;> simp [bit64]

/-- The three fields of STATUS, each at its own bits. -/
theorem getLsbD_statusWord (e : ErrorRegs) (valid : Bool) {k : Nat} (hk : k < 64) :
    (statusWord e valid).getLsbD k =
      ((decide (8 ≤ k) && e.ecause.getLsbD (k - 8)) || (decide (k = 1) && valid) || (decide (k = 0) && e.err)) := by
  have hcause : (e.ecause.setWidth 64 <<< 8).getLsbD k = (decide (8 ≤ k) && e.ecause.getLsbD (k - 8)) := by
    rw [BitVec.getLsbD_shiftLeft, BitVec.getLsbD_setWidth]
    by_cases h : k < 8
    · simp [h]
    · simp [h, hk, show k - 8 < 64 by omega, show 8 ≤ k by omega]
  have hvalid : (bit64 valid <<< 1).getLsbD k = (decide (k = 1) && valid) := by
    rw [BitVec.getLsbD_shiftLeft, getLsbD_bit64]
    rcases Nat.lt_trichotomy k 1 with h | rfl | h
    · simp [h, h.ne]
    · simp
    · simp [h.ne', show k - 1 ≠ 0 by omega]
  rw [statusWord, BitVec.getLsbD_or, BitVec.getLsbD_or, hcause, hvalid, getLsbD_bit64]

/-- Settles O36: bit 0, bit 1, the byte of ECAUSE, and past it, where the byte has no bits. -/
theorem statusReadBits : Obligations.StatusReadBits := by
  unfold Obligations.StatusReadBits
  intro s k hk
  rw [State.readReg, getLsbD_statusWord _ _ hk]
  split
  · next h => simp [h]
  · next h0 =>
    split
    · next h => simp [h]
    · next h1 =>
      split
      · next h => simp [h0, h1, h]
      · next h =>
        have hout : (decide (8 ≤ k) && s.errs.ecause.getLsbD (k - 8)) = false := by
          by_cases h8 : 8 ≤ k
          · rw [BitVec.getLsbD_of_ge _ _ (by omega), Bool.and_false]
          · simp [h8]
        simp [h0, h1, hout]

/-! ### The range check -/

/-- Settles O30: the sum is of naturals, and one past the last byte is where an empty operand may start. -/
theorem rangeCheckDoesNotWrap : Obligations.RangeCheckDoesNotWrap := by
  unfold Obligations.RangeCheckDoesNotWrap
  refine ⟨fun s ⟨_, hsize⟩ he hsrc hlen => ?_, fun s he hsrc hlen => ?_⟩
  · have hmax : s.dmemSize ≤ 2 ^ 32 := hsize
    have hsum : s.regs.src.toNat + s.regs.len.toNat = 2 ^ 32 + 16 := by
      rw [hsrc, hlen]
      rfl
    have hc : s.causeOf .mur32 = some .dmemRange := if_pos (by omega)
    exact exec_of_causeOf rfl he hc
  · rw [exec_mur32_of_len (n := 0) he (congrArg BitVec.toNat hlen) hsrc.le, State.withResult]
    exact ⟨_, rfl⟩

/-! ### LOADB -/

theorem State.memWrite_nil (s : State) (a : Nat) : s.memWrite a [] = s := rfl

theorem State.memWrite_cons (s : State) (a : Nat) (b : Byte) (bs : List Byte) :
    s.memWrite a (b :: bs) = (s.writeByte a b).memWrite (a + 1) bs := rfl

/-- R44: the written range reads back. -/
theorem State.memRead_memWrite (s : State) (a : Nat) (bs : List Byte) : (s.memWrite a bs).memRead a bs.length = bs := by
  refine List.ext_getElem (State.memRead_length ..) fun i hi hi' => ?_
  rw [State.memRead_getElem, State.readByte_memWrite, if_pos (by omega), Nat.add_sub_cancel_left,
    List.getD_eq_getElem _ _ hi']

/-- Each HWRB of a LOADB inside DMEM writes its byte. -/
theorem runInstrs_loadBytes {s : State} {a : Nat} {bs : List Byte} (hr : a + bs.length ≤ s.dmemSize)
    (hsize : s.dmemSize ≤ 2 ^ 32) : runInstrs (loadBytes a bs) s = .next (s.memWrite a bs) := by
  induction bs generalizing s a with
  | nil => rw [loadBytes, runInstrs, State.memWrite_nil]
  | cons b bs ih =>
    rw [List.length_cons] at hr
    have haddr : (BitVec.ofNat 32 a).toNat = a := by
      rw [BitVec.toNat_ofNat, Nat.mod_eq_of_lt (by omega)]
    have hwrite := exec_hwrb_of_lt (a := BitVec.ofNat 32 a) (s := s) (by omega) b
    rw [haddr] at hwrite
    have hrest : a + 1 + bs.length ≤ (s.writeByte a b).dmemSize := by
      rw [State.writeByte_dmemSize]
      omega
    rw [loadBytes, runInstrs_cons_of_exec hwrite, ih hrest hsize, State.memWrite_cons]

/-- Settles O40: the HWRBs amount to one MemWrite of the range. -/
theorem loadbLoadsItsBytes : Obligations.LoadbLoadsItsBytes := by
  unfold Obligations.LoadbLoadsItsBytes
  rintro s a bs ⟨-, hsize⟩ hr
  refine ⟨s.memWrite a bs, runInstrs_loadBytes hr hsize, ?_, s.memRead_memWrite a bs, fun x hx => ?_⟩
  · rw [State.memWrite]
  · rw [State.readByte_memWrite, if_neg (by omega)]

/-! ### BIP32H -/

/-- The call of BIP32H is made of its operands and input bytes only (R110, R111). -/
theorem State.bip32Call_congr {s s' : State} (hheader : s.regs.header = s'.regs.header)
    (hindex : s.regs.index = s'.regs.index)
    (haux : ∀ i < 32, s.readByte (s.regs.aux.toNat + i) = s'.readByte (s'.regs.aux.toNat + i))
    (hsrc : ∀ i < 32, s.readByte (s.regs.src.toNat + i) = s'.readByte (s'.regs.src.toNat + i)) :
    s.bip32Call = s'.bip32Call := by
  have hmaterial : s.memReadVec s.regs.src.toNat 32 = s'.memReadVec s'.regs.src.toNat 32 :=
    Vector.ext fun i hi => by rw [State.memReadVec_getElem, State.memReadVec_getElem, hsrc i hi]
  refine eq_bip32Call (fun i hi => ?_) ?_
  · rw [State.bip32Call, State.memReadVec_getElem, haux i hi]
  · rw [State.bip32Call, hheader, hindex, hmaterial]

/-- Settles O59: equal calls have equal answers, and each state stores its answer at its own DST. -/
theorem bip32hIsDeterministic : Obligations.Bip32hIsDeterministic := by
  unfold Obligations.Bip32hIsDeterministic
  intro s s' he he' hin hin' hheader hindex haux hsrc
  refine ⟨_, _, exec_bip32h he hin, exec_bip32h he' hin', fun i hi => ?_⟩
  rw [State.recordCall_readByte, State.recordCall_readByte, State.readByte_memWrite_toList s _ _ i hi,
    State.readByte_memWrite_toList s' _ _ i hi, State.bip32Call_congr hheader hindex haux hsrc]

end Sys2Proof.Machine
end
